-- ==== Sys2Proof/Word.lean ====
section
/-! DEFINITION. The words of the part: bytes of the host link, the fields of a line word, counters. -/

namespace Sys2Proof

/-- One byte of the host link (R138). -/
abbrev Byte := BitVec 8

/-- The 12-bit tag of a line word (Table 1-1). -/
abbrev Tag := BitVec 12

/-- The 24-bit value of a line word (Table 1-1). -/
abbrev Value := BitVec 24

/-- The 4-bit check of a line word (Table 1-1, R2). -/
abbrev Check := BitVec 4

/-- The 40 bit positions of a line word; position 1 is the most significant bit (R1). -/
abbrev LineBits := BitVec 40

/-- A counter that wraps from 4,294,967,295 to 0 (00_scope.md section 5, "Counters"). -/
abbrev Counter := BitVec 32

/-- A field line port, and the line it carries (00_scope.md section 5, "Line numbers"). -/
abbrev LineNo := Fin 12

/-- A capture queue and the stream that drains it; 12 is the merged queue. -/
abbrev QueueNo := Fin 13

/-- The index of a plan slot (R93). -/
abbrev SlotNo := Fin 384

end Sys2Proof
end

