-- ==== Sys2Proof/Syntax.lean ====
section
/-! DEFINITION. The commands of the part: one constructor for each row of spec/opcode_table.json. The rows of the
request executor carry no operands: the request's bytes wait in the request queue (R144, R148; notes/assumptions/2.md). -/

namespace Sys2Proof

/-- The two signalling conditions of a line pair; null is the absence of one (section 1.2). -/
inductive Polarity where
  | positive
  | negative
  deriving DecidableEq, Repr

/-- A command: one step of the part, "each whole and indivisible" (spec/95_what_each_step_holds.md). -/
inductive Instr where
  /-- POWER_ON (R137): release of RSTn; `lrate` is what the pins LRATE1..0 show (Table 0-3). -/
  | powerOn (lrate : BitVec 2)
  /-- RSTN_LOW (R137): RSTn is driven low. -/
  | rstnLow
  /-- PULSE_EDGE (R89): a rising edge at PULSE. -/
  | pulseEdge
  /-- ARM_WINDOW_EXPIRY (R88). -/
  | armWindowExpiry
  /-- FIRST_EDGE (R7): the line pair goes from null to positive or negative. -/
  | firstEdge (line : LineNo) (sense : Polarity)
  /-- BIT_DECODED (R7, R3): a bit whose halves are of opposite sense. -/
  | bitDecoded (line : LineNo) (first second : Polarity)
  /-- CODING_VIOLATION (R7, R3). -/
  | codingViolation (line : LineNo)
  /-- END_OF_WORD (R8): the pair has been null for 2 bit times. -/
  | endOfWord (line : LineNo)
  /-- MISSED_WORD_ENDED (R6): the pair of a line that missed a word has been null for 2 bit times. -/
  | missedWordEnded (line : LineNo)
  /-- MISSING_TIME_REACHED (R118). -/
  | missingTimeReached (line : LineNo)
  /-- END_OF_SENDING (R13). -/
  | endOfSending (line : LineNo)
  /-- END_OF_SPACING (R13). -/
  | endOfSpacing (line : LineNo)
  /-- TRANSMIT_SELECTION (R103). -/
  | transmitSelection (line : LineNo)
  /-- STOP_END (R133). -/
  | stopEnd (line : LineNo)
  /-- SLOT_DUE (R98). -/
  | slotDue (index : SlotNo)
  /-- INTAKE_TAKE (R24). -/
  | intakeTake
  /-- TAG_TABLE_WORK_DONE (R18). -/
  | tagTableWorkDone
  /-- FRESHNESS_EXPIRY (R46) of the exact entry of `line` and `tag`. -/
  | freshnessExpiry (line : LineNo) (tag : Tag)
  /-- BYTE_RECEIVED (R140): a byte completes on HRXD; `stopHigh` is its stop bit as sampled (R138). -/
  | byteReceived (byte : Byte) (stopHigh : Bool)
  /-- START_BIT (R141): a start bit on HRXD. -/
  | startBit
  /-- INTER_BYTE_TIMEOUT (R141). -/
  | interByteTimeout
  /-- UNKNOWN_REQUEST (R172). -/
  | unknownRequest
  /-- IDENTIFY (R150). -/
  | identify
  /-- GET_STATUS (R151). -/
  | getStatus
  /-- RESET_TRAFFIC (R152). -/
  | resetTraffic
  /-- RESET_FULL (R153). -/
  | resetFull
  /-- RESET_FULL_TAKES_EFFECT (R153). -/
  | resetFullTakesEffect
  /-- CONFIGURE_LINE (R126). -/
  | configureLine
  /-- START_LINE (R128). -/
  | startLine
  /-- STOP_LINE (R131). -/
  | stopLine
  /-- READ_LINE (R135). -/
  | readLine
  /-- CLEAR_FAULT (R123). -/
  | clearFault
  /-- ADD_TAG (R34). -/
  | addTag
  /-- CHANGE_TAG (R35). -/
  | changeTag
  /-- REMOVE_TAG (R36). -/
  | removeTag
  /-- READ_TAG (R37). -/
  | readTag
  /-- LIST_TAGS (R38). -/
  | listTags
  /-- CLEAR_TAGS (R39). -/
  | clearTags
  /-- SET_QUEUE (R75). -/
  | setQueue
  /-- READ_QUEUE (R77). -/
  | readQueue
  /-- SET_TIME (R85). -/
  | setTime
  /-- ARM_TIME (R86). -/
  | armTime
  /-- CANCEL_ARM (R87). -/
  | cancelArm
  /-- READ_TIME (R92). -/
  | readTime
  /-- SET_PULSE_NOTICE (R91). -/
  | setPulseNotice
  /-- ADD_SLOT (R108). -/
  | addSlot
  /-- CHANGE_SLOT (R109). -/
  | changeSlot
  /-- SET_VALUE (R111). -/
  | setValue
  /-- REMOVE_SLOT (R112). -/
  | removeSlot
  /-- READ_SLOT (R113). -/
  | readSlot
  /-- SEND (R102). -/
  | send
  /-- START_REPORTS (R168). -/
  | startReports
  /-- STOP_REPORTS (R168). -/
  | stopReports
  /-- RESYNC (R169). -/
  | resync
  /-- SUBSCRIBE (R158). -/
  | subscribe
  /-- UNSUBSCRIBE (R158). -/
  | unsubscribe
  /-- FLUSH (R159). -/
  | flush
  /-- HOLD_RUN_OUT (R156). -/
  | holdRunOut (stream : QueueNo)
  /-- REPORT_FORMATION (R161). -/
  | reportFormation
  /-- LINK_FRAME_START (R147). -/
  | linkFrameStart
  /-- LINK_FRAME_COMPLETE (R147). -/
  | linkFrameComplete
  /-- RETRANSMIT_TIMEOUT (R166). -/
  | retransmitTimeout
  deriving DecidableEq, Repr

end Sys2Proof
end

