-- ==== Sys2Proof/Decode.lean ====
section
/-! DEFINITION. The decoder over the table's bits. No row of spec/opcode_table.json gives bits (spec/98_reader.md:
"n_rows_with_fixed": 0), so no word spells a command. The host link's own frames are decoded by the machine
(Machine/Link.lean, Machine/Operands.lean). -/

namespace Sys2Proof

/-- The command that a word spells by the table's bits: none, for no row of the table gives bits
(notes/assumptions/22.md). -/
def decodeTableWord (_nbits _w : Nat) : Option Instr := none

end Sys2Proof
end

