-- ==== Sys2Proof/Config.lean ====
section
/-! DEFINITION. What an implementation of the part fixes (Table 0-5 and the constants that rules name) and the one
value the spec leaves open. -/

namespace Sys2Proof.Config

/-- Arrival intake items (Table 0-5). -/
def intakeItems : Nat := 16
/-- Tag Table entries (Table 0-5). -/
def tagEntries : Nat := 640
/-- Record pool of the twelve line queues (Table 0-5). -/
def poolRecords : Nat := 8192
/-- Depth of the merged queue (Table 0-5). -/
def mergedRecords : Nat := 4096
/-- Depth of each line queue after power-on (R57). -/
def defaultDepth : Nat := 512
/-- Plan slots (Table 0-5). -/
def planSlots : Nat := 384
/-- Words of one send queue (Table 0-5). -/
def sendQueueWords : Nat := 32
/-- Notices of the notice queue (Table 0-5). -/
def noticeQueue : Nat := 64
/-- Reports of the window (Table 0-5). -/
def windowReports : Nat := 8
/-- Records or notices in one report (Table 0-5). -/
def perReport : Nat := 12
/-- Waiting requests (Table 0-5). -/
def waitingRequests : Nat := 4
/-- Cached replies (Table 0-5). -/
def cachedReplies : Nat := 4
/-- Listed replies (Table 0-5). -/
def listedReplies : Nat := 8
/-- Largest payload of a frame (Table 0-5). -/
def largestPayload : Nat := 250
/-- The part code IDENTIFY returns (R150). -/
def partCode : Nat := 6412
/-- The revision code IDENTIFY returns (R150). -/
def revision : Nat := 1
/-- Shortest spacing of taken PULSE edges, in µs (R89). -/
def pulseSpacing : Nat := 500000
/-- Longest gap inside a frame, in µs (R141). -/
def interByteGap : Nat := 2000
/-- Largest line time a request may load (R85, R86). -/
def largestLineTime : Nat := 9223372036854775807
/-- Largest value of a 32-bit quantity (R72, R49, R89). -/
def max32 : Nat := 4294967295
/-- Largest notice pending loss (R155). -/
def max16 : Nat := 65535

/-- FREE VALUE. How long the Tag Table works on an item, "from 1 µs to 40 µs of run clock after the take according to
the item and the table's contents" (R18): `itemBits` stands for the item, `takenAt` for the moment and so for the
table's contents. Used only through `Busy.doneBy`, which brings it into 1..40. -/
opaque tagTableWork (itemBits takenAt : Nat) : Nat

end Sys2Proof.Config
end

