-- ==== Sys2Proof/Machine/State.lean ====
section
/-! DEFINITION. The state of the part as plain data, the faults and refusals, and the state after reset. Each type
cites the table or rule of spec/ that names what it holds. -/

namespace Sys2Proof.Machine

/-! ### Lines and ports (Chapters 1, 7, 8) -/

/-- Use of a port (Table 1-4). -/
inductive Role where
  | off | receive | transmit | echo
  deriving DecidableEq, Repr

/-- Bit rate of a line in kbit/s (R4). -/
inductive Rate where
  | k12_5 | k50 | k100 | k200
  deriving DecidableEq, Repr

/-- Queues that receive a record of a word with no entry (R26). -/
inductive MissRoute where
  | none | line | merged | both
  deriving DecidableEq, Repr

/-- Order of plan slots and send queue at selection (R104). -/
inductive TransmitPolicy where
  | planFirst | queueFirst
  deriving DecidableEq, Repr

/-- Line configuration with its defaults (Table 8-2). `captureErrors` is the error disposition CAPTURE. -/
structure LineConfig where
  role : Role := .off
  rate : Rate := .k50
  captureErrors : Bool := false
  errorNotice : Bool := false
  missRoute : MissRoute := .none
  policy : TransmitPolicy := .planFirst
  echoThreshold : Nat := 3
  keepEcho : Bool := false
  deriving DecidableEq, Repr

/-- Line states (Table 8-1). -/
inductive LineState where
  | off | ready | running | stopping | fault
  deriving DecidableEq, Repr

/-- A stamp: the line time at a moment with the epoch in force at that moment, one pair (R82). -/
structure Stamp where
  time : Nat
  epoch : Byte
  deriving DecidableEq, Repr

/-- Kinds of damage of a received word (R8). -/
inductive ErrorKind where
  | check | length | code
  deriving DecidableEq, Repr

/-- What the receiver found at the end of a word (R8): a good word, or an error with its recorded bit count. -/
inductive OutcomeKind where
  | word
  | error (kind : ErrorKind) (count : Nat)
  deriving DecidableEq, Repr

/-- A receiver outcome (R8); its line is the port that produced it. -/
structure ReceiverOutcome where
  kind : OutcomeKind
  bits : LineBits
  stamp : Stamp
  deriving DecidableEq, Repr

/-- Receiver states with what they hold (Table 1-5). `missed` in IDLE: the pair still carries a word the receiver
missed (R6). -/
inductive Receiver where
  | dormant
  | idle (missed : Bool)
  | inWord (count : Nat) (bits : LineBits)
  | discarding (count : Nat) (bits : LineBits)
  deriving DecidableEq, Repr

/-- Transmitter states with the word on the wire and the run clock at which the state ends (Table 1-6, R13). -/
inductive Transmitter where
  | dormant
  | free
  | sending (word : LineBits) (ends : Nat)
  | spacing (word : LineBits) (ends : Nat)
  deriving DecidableEq, Repr

/-- What a driver does to its line pair: it is released, holds the pair null, or sends a half-bit of a sense (R3, R5,
R13). -/
inductive Drive where
  | released
  | null
  | sends (sense : Polarity)
  deriving DecidableEq, Repr

/-- Comparator states and contents (Tables 7-1 and 7-2). -/
inductive Comparator where
  | inactive
  | clear
  | waiting (word : LineBits) (missing : Option Nat)
  | held (word : LineBits) (outcome : ReceiverOutcome)
  deriving DecidableEq, Repr

/-- Judgements of a read-back (R117, R118). -/
inductive Judgement where
  | matched
  | different
  | error (kind : ErrorKind)
  | missing
  deriving DecidableEq, Repr

/-- Stop modes (R131). -/
inductive StopMode where
  | drain | discard
  deriving DecidableEq, Repr

/-- What a line holds of a stop that runs: its mode and the number of words it discarded (R132). -/
structure StopInProgress where
  mode : StopMode
  discarded : Nat
  deriving DecidableEq, Repr

/-- A one-off word of a send queue (R101). -/
structure OneOff where
  tag : Tag
  value : Value
  deriving DecidableEq, Repr

/-- The ten per-line counters in the order of R15. -/
structure LineCounters where
  wordsReceived : Counter := 0
  checkErrors : Counter := 0
  lengthErrors : Counter := 0
  codeErrors : Counter := 0
  cutWords : Counter := 0
  intakeOverruns : Counter := 0
  wordsSent : Counter := 0
  echoMismatches : Counter := 0
  foreignWords : Counter := 0
  misses : Counter := 0
  deriving DecidableEq, Repr

/-- One field line port with the line it carries (R125, Tables 1-5, 1-6, 7-1). `pair` is the condition of the line
pair as the port's pins last showed it, `none` for null (section 1.2). -/
structure Port where
  state : LineState := .off
  config : LineConfig := {}
  t0 : Option Nat := none
  counters : LineCounters := {}
  consecutive : Nat := 0
  sendQueue : List OneOff := []
  stop : Option StopInProgress := none
  receiver : Receiver := .dormant
  transmitter : Transmitter := .dormant
  comparator : Comparator := .inactive
  pair : Option Polarity := none
  deriving DecidableEq, Repr

/-! ### The arrival intake and the Tag Table (Chapters 1 to 3) -/

/-- Kinds of intake item (Table 1-7). -/
inductive ItemKind where
  | word
  | errorWord (kind : ErrorKind) (count : Nat)
  | echo
  deriving DecidableEq, Repr

/-- An intake item (Table 1-7), with the run clock at which it was offered (the order of R16) and the stamps of the
LINE_START MARKs attached to it, oldest first (R62). -/
structure Item where
  kind : ItemKind
  line : LineNo
  bits : LineBits
  stamp : Stamp
  offeredAt : Nat
  marks : List Stamp := []
  deriving DecidableEq, Repr

/-- The Tag Table's work on an item (R18): the item and the run clock at its take. -/
structure Busy where
  item : Item
  takenAt : Nat
  deriving DecidableEq, Repr

/-- A line start or stop that must reach the line's exact entries as one happening at the Tag Table (R22, R43, R44).
`monitored` says that the start was of a RECEIVE line; `moment` is the run clock of the stop. -/
inductive LineChange where
  | started (line : LineNo) (monitored : Bool) (t0 : Nat)
  | stopped (line : LineNo) (moment : Nat)
  deriving DecidableEq, Repr

/-- The line of a key: a port number or ANY (section 2.1). -/
inductive KeyLine where
  | port (line : LineNo)
  | any
  deriving DecidableEq, Repr

/-- The key of a Tag Table entry (R19). -/
structure Key where
  line : KeyLine
  tag : Tag
  deriving DecidableEq, Repr

/-- When an accepted word queues a CHANGE notice (R32). -/
inductive Notify where
  | none | each | change
  deriving DecidableEq, Repr

/-- What becomes of an early word (R53). -/
inductive EarlyAction where
  | keep | drop
  deriving DecidableEq, Repr

/-- Entry settings (Table 2-1); deadline and min interval in ms. -/
structure EntrySettings where
  routeLine : Bool
  routeMerged : Bool
  keepLatest : Bool
  onChange : Bool
  notify : Notify
  deadline : Option Nat
  minInterval : Option Nat
  earlyAction : EarlyAction
  notifyEarly : Bool
  deriving DecidableEq, Repr

/-- The latest accepted value with its stamp, epoch and line (Table 2-2). -/
structure Latest where
  value : Value
  stamp : Stamp
  line : LineNo
  deriving DecidableEq, Repr

/-- Freshness states with the run clock time each holds (Table 3-1, R41). -/
inductive Freshness where
  | none
  | idle
  | unseen (expiry : Nat)
  | fresh (expiry : Nat)
  | stale (since : Nat)
  deriving DecidableEq, Repr

/-- A Tag Table entry: key, settings (Table 2-1) and state (Table 2-2). -/
structure Entry where
  key : Key
  settings : EntrySettings
  latest : Option Latest := none
  lastAccepted : Option Nat := none
  firstDue : Bool := true
  freshness : Freshness
  accepted : Counter := 0
  early : Counter := 0
  unchanged : Counter := 0
  deriving DecidableEq, Repr

/-! ### Capture queues (Chapter 4) -/

/-- How a word was judged and routed (Table 4-2, R31). -/
structure RecordFlags where
  early : Bool := false
  first : Bool := false
  changed : Bool := false
  any : Bool := false
  miss : Bool := false
  own : Bool := false
  deriving DecidableEq, Repr

/-- Reasons of a MARK record (R61). -/
inductive MarkReason where
  | timeSet | timeAligned | lineStart
  deriving DecidableEq, Repr

/-- Kind, flags and detail of a record: only words carry flags (R59). -/
inductive RecordBody where
  | word (flags : RecordFlags)
  | errorWord (kind : ErrorKind) (count : Nat)
  | mark (reason : MarkReason)
  deriving DecidableEq, Repr

/-- A capture record (Table 4-2); `bits` holds tag, value and check, all 0 for a MARK. -/
structure CaptureRecord where
  body : RecordBody
  line : QueueNo
  bits : LineBits
  stamp : Stamp
  deriving DecidableEq, Repr

/-- What settles an offer to a full queue (section 4.3). -/
inductive QueuePolicy where
  | keepOld | keepNew
  deriving DecidableEq, Repr

/-- One capture queue with its accounting (Tables 4-1 and 4-3, R73); the first `inFlight` records are in flight (R68). -/
structure CaptureQueue where
  depth : Nat
  policy : QueuePolicy := .keepOld
  records : List CaptureRecord := []
  inFlight : Nat := 0
  offered : Counter := 0
  acknowledged : Counter := 0
  lostTotal : Counter := 0
  pendingLoss : Nat := 0
  armed : Bool := true
  deriving DecidableEq, Repr

/-! ### Line time (Chapter 5) -/

/-- An armed load (R86): the arm value, the arm start and the arm expiry. -/
structure Arm where
  value : Nat
  start : Nat
  expiry : Nat
  deriving DecidableEq, Repr

/-- The time base (Table 5-1). The arm state is ARMED exactly when `arm` is present. -/
structure TimeBase where
  runClock : Nat := 0
  lineTime : Nat := 0
  epoch : Byte := 0
  arm : Option Arm := none
  lastEdge : Option Nat := none
  edgesSince : Nat := 0
  ignoredEdges : Counter := 0
  pulseNotices : Bool := false
  deriving DecidableEq, Repr

/-! ### The Transmit Plan (Chapter 6) -/

/-- Slot modes (Table 6-1). -/
inductive SlotMode where
  | always | onUpdate
  deriving DecidableEq, Repr

/-- Slot settings other than the line (Table 6-1); period and phase in plan units of 100 µs. -/
structure SlotSettings where
  tag : Tag
  value : Value
  period : Nat
  phase : Nat
  mode : SlotMode
  limit : Option Nat
  enabled : Bool
  notifyMiss : Bool
  notifyDone : Bool
  deriving DecidableEq, Repr

/-- A plan slot (Tables 6-1 and 6-2); `pending` holds the pending due time. -/
structure Slot where
  index : SlotNo
  line : LineNo
  settings : SlotSettings
  updated : Bool := false
  pending : Option Nat := none
  nextDue : Option Nat := none
  remaining : Option Nat := none
  sent : Counter := 0
  misses : Counter := 0
  skips : Counter := 0
  deriving DecidableEq, Repr

/-! ### The host link (Chapter 9) -/

/-- Host link rates (Table 0-3). -/
inductive LinkRate where
  | b115200 | b460800 | b921600 | b3000000
  deriving DecidableEq, Repr

/-- Frame receiver states (Table 9-4): the bytes of the frame after SYNC, the run clock at which its last byte
completed, and whether a start bit has begun the next byte (R141). -/
inductive FrameReceiver where
  | hunt
  | header (bytes : List Byte) (lastAt : Nat) (started : Bool)
  | body (bytes : List Byte) (lastAt : Nat) (started : Bool)
  deriving DecidableEq, Repr

/-- The eight link counters in the order of R154. -/
structure LinkCounters where
  byteErrors : Counter := 0
  timeouts : Counter := 0
  lengthErrors : Counter := 0
  crcErrors : Counter := 0
  kindErrors : Counter := 0
  duplicates : Counter := 0
  busyRefusals : Counter := 0
  busyDropped : Counter := 0
  deriving DecidableEq, Repr

/-- A request: the SEQ and payload of a REQUEST frame (R143). -/
structure Request where
  seq : Byte
  payload : List Byte
  deriving DecidableEq, Repr

/-- What the request in execution waits for: the Tag Table's work (R33), the stop of a line (R134), the end of its own
reply frame (R153), or nothing but RESET(FULL) taking effect (R153). -/
inductive ExecutorHold where
  | atTagTable
  | stop (line : LineNo)
  | resetReply
  | resetDue
  deriving DecidableEq, Repr

/-- The request in execution (R148). -/
structure Executing where
  request : Request
  hold : ExecutorHold
  deriving DecidableEq, Repr

/-- A reply: the SEQ and payload of a REPLY frame. `endsReset` marks the one reply whose complete frame lets a
RESET(FULL) take effect; copies of it do not carry the mark (R153). -/
structure Reply where
  seq : Byte
  payload : List Byte
  endsReset : Bool := false
  deriving DecidableEq, Repr

/-- The frame on HTXD (R147): its bytes, the run clock at its start, and the mark of a RESET(FULL) reply. -/
structure TransmitFrame where
  bytes : List Byte
  startedAt : Nat
  endsReset : Bool
  deriving DecidableEq, Repr

/-- The host link (Table 9-5 and R138 to R154). -/
structure HostLink where
  rate : LinkRate := .b115200
  receiver : FrameReceiver := .hunt
  counters : LinkCounters := {}
  requests : List Request := []
  executing : Option Executing := none
  cache : List Reply := []
  replies : List Reply := []
  transmitter : Option TransmitFrame := none
  deriving DecidableEq, Repr

/-! ### The report unit (Chapter 10) -/

/-- What a notice says (Table 10-2, Table 11-7); a STALE notice says whether the entry left FRESH, a LINE_FAULT notice
whether the line was STOPPING. -/
inductive NoticeBody where
  | stale (leftFresh : Bool) (deadline : Nat)
  | freshAgain (ms : Nat)
  | early (action : EarlyAction) (interval : Nat)
  | change (changed : Bool) (value : Value)
  | lineError (kind : ErrorKind) (count : Nat)
  | queueFull (depth : Nat)
  | slotMiss (index : SlotNo) (age : Nat)
  | slotDone (index : SlotNo)
  | echoMismatch (judgement : Judgement) (consecutive : Nat)
  | lineFault (stopping : Bool) (judgement : Judgement) (consecutive : Nat)
  | pulse (loaded : Bool) (edges : Nat)
  | timeAligned (ms : Nat)
  | armExpired (ms : Nat)
  deriving DecidableEq, Repr

/-- A notice (Table 10-1); line `none` is 255, no line. -/
structure Notice where
  body : NoticeBody
  line : Option QueueNo
  tag : Tag
  stamp : Stamp
  deriving DecidableEq, Repr

/-- Stream settings and state (Table 10-3); hold in ms. -/
structure StreamState where
  subscribed : Bool := false
  batch : Nat := 12
  hold : Nat := 50
  flushPending : Bool := false
  holdStart : Option Nat := none
  deriving DecidableEq, Repr

/-- Contents of a report slot (Table 10-4). -/
inductive ReportBody where
  | notices (list : List Notice) (loss : Nat)
  | data (stream : QueueNo) (count loss : Nat)
  deriving DecidableEq, Repr

/-- An unacknowledged report (Table 10-4). -/
structure Report where
  seq : Byte
  body : ReportBody
  due : Bool
  deriving DecidableEq, Repr

/-- Reporting states (Table 10-5). -/
inductive ReportingState where
  | silent | active | stalled
  deriving DecidableEq, Repr

/-- The report unit (Chapter 10); the window is oldest first, timeout in ms. -/
structure ReportUnit where
  notices : List Notice := []
  noticeLoss : Nat := 0
  streams : Vector StreamState 13 := Vector.replicate 13 {}
  window : List Report := []
  nextSeq : Byte := 0
  lastServed : QueueNo := 12
  state : ReportingState := .silent
  timer : Option Nat := none
  retries : Nat := 0
  timeout : Nat := 200
  retryLimit : Nat := 3
  strays : Counter := 0
  deriving DecidableEq, Repr

/-! ### The part -/

/-- Reset causes (R151). -/
inductive ResetCause where
  | power | request
  deriving DecidableEq, Repr

/-- The whole part. `held` says that RSTn is low (R137); `tags` and `plan` are strictly rising in key and index;
`pending` is the model's queue of waiting commands, first in, first out. -/
structure State where
  held : Bool
  resetCause : ResetCause
  time : TimeBase
  ports : Vector Port 12
  intake : List Item
  busy : Option Busy
  lineChanges : List LineChange
  tags : List Entry
  queues : Vector CaptureQueue 13
  plan : List Slot
  link : HostLink
  reports : ReportUnit
  pending : List Instr
  deriving DecidableEq, Repr

/-- The reasons a step can stop the part. None: the spec gives no happening that stops it; what cannot be accepted is
counted, lost or refused with a status (INVENTORY.md, "Faults"). No one raises one; safe. -/
inductive Fault where
  deriving DecidableEq, Repr

/-- The reasons the model has no meaning for a command. -/
inductive Refusal where
  /-- Raised by an arm of `exec` whose command has no meaning yet; there is none. Safe. -/
  | notModelled (mnemonic : String)
  deriving DecidableEq, Repr

/-- The thirteen queues after power-on: depth 512 for the line queues, 4,096 for the merged queue (R57, R79). -/
def resetQueues : Vector CaptureQueue 13 :=
  (Vector.replicate 13 { depth := Config.defaultDepth }).set 12 { depth := Config.mergedRecords }

/-- The part right after RSTn is released at power-on (R80, R125, R137, R79, R114, R170 and Tables 5-1, 9-5, 10-3).
DESIGN CHOICE: LRATE1..0 = 00 (notes/assumptions/6.md) and null line pairs (notes/assumptions/7.md). -/
def State.reset : State where
  held := false
  resetCause := .power
  time := {}
  ports := Vector.replicate 12 {}
  intake := []
  busy := none
  lineChanges := []
  tags := []
  queues := resetQueues
  plan := []
  link := {}
  reports := {}
  pending := []

end Sys2Proof.Machine
end

