-- ==== Sys2Proof/Machine/Operands.lean ====
section
/-! DEFINITION. Reading and writing what crosses the pins: the line word and its coding (Chapter 1), bytes, fields and
settings of requests (Tables 11-3 and 11-5, R172, R173), and the layouts of replies, records, notices, reports and
frames (Tables 9-2, 11-4, 11-6, 11-7, 11-8, R174). -/

namespace Sys2Proof.Machine

/-! ### The line word -/

/-- The tag of the 40 bit positions, bits 1 to 12 (Table 1-1, R1). -/
def lineTag (bits : LineBits) : Tag := bits.extractLsb' 28 12

/-- The value of the 40 bit positions, bits 13 to 36 (Table 1-1, R1). -/
def lineValue (bits : LineBits) : Value := bits.extractLsb' 4 24

/-- The check of the 40 bit positions, bits 37 to 40 (Table 1-1, R1). -/
def lineCheck (bits : LineBits) : Check := bits.extractLsb' 0 4

/-- One bit through the check register (R2): feedback is the bit XOR the register's most significant bit; shift left
entering 0; where the feedback is 1, invert the two least significant bits. -/
def checkStep (register : Check) (bit : Bool) : Check :=
  if bit != register.msb then (register <<< 1) ^^^ 3#4 else register <<< 1

/-- The check over the 36 tag and value bits in sending order, from a register of 0 (R2). -/
def checkOf (tag : Tag) (value : Value) : Check :=
  (List.range 36).foldl (fun register k => checkStep register ((tag ++ value).getMsbD k)) 0#4

/-- The word the part sends: tag, value and the check it computes from them (R2, R13). -/
def lineWord (tag : Tag) (value : Value) : LineBits :=
  (tag ++ value ++ checkOf tag value : BitVec (12 + 24 + 4))

/-- Whether bits 37 to 40 hold the check of bits 1 to 36 (R2, R8). -/
def checkAgrees (bits : LineBits) : Bool :=
  lineCheck bits == checkOf (lineTag bits) (lineValue bits)

/-- The two half-bits of a bit: 1 is positive then negative, 0 is negative then positive (R3). -/
def halfBits (bit : Bool) : Polarity × Polarity :=
  if bit then (.positive, .negative) else (.negative, .positive)

/-- The bit two half-bits stand for, or `none` where both have the same sense, a coding violation (R3). -/
def bitOfHalves : Polarity → Polarity → Option Bool
  | .positive, .negative => some true
  | .negative, .positive => some false
  | _, _ => none

/-- The half-bits of a word as the driver sends them, position 1 first (R1, R3). -/
def wordHalfBits (bits : LineBits) : List (Polarity × Polarity) :=
  (List.range 40).map fun k => halfBits (bits.getMsbD k)

/-- The bit positions after the bit with number `count + 1` is decoded: bits after the 40th are not kept (R1, R7). -/
def placeBit (count : Nat) (bit : Bool) (bits : LineBits) : LineBits :=
  if count < 40 then bits ||| ((BitVec.ofBool bit).setWidth 40 <<< (39 - count)) else bits

/-- What a word ended in IN_WORD is: LENGTH, CHECK or WORD (R8). -/
def outcomeInWord (count : Nat) (bits : LineBits) : OutcomeKind :=
  if count ≠ 40 then .error .length (min count 63)
  else if checkAgrees bits then .word
  else .error .check 40

/-- What a word ended in DISCARDING is: CODE with the bits decoded before the violation (R8). -/
def outcomeDiscarding (count : Nat) : OutcomeKind := .error .code (min count 63)

/-- Bit time of a rate in µs (Table 1-3). -/
def bitTime : Rate → Nat
  | .k12_5 => 80
  | .k50 => 20
  | .k100 => 10
  | .k200 => 5

/-! ### Bytes -/

/-- The most significant byte first encoding of a number in `n` bytes (R172). -/
def bigEndian : Nat → Nat → List Byte
  | 0, _ => []
  | n + 1, x => BitVec.ofNat 8 (x / 256 ^ n) :: bigEndian n x

/-- The number that bytes spell, most significant byte first (R172). -/
def fromBytes (bytes : List Byte) : Nat :=
  bytes.foldl (fun acc b => acc * 256 + b.toNat) 0

/-- The byte of a payload field at an offset. -/
def byteAt (bytes : List Byte) (offset : Nat) : Byte := bytes.getD offset 0

/-- The number of a payload field of `length` bytes at an offset. -/
def numberAt (bytes : List Byte) (offset length : Nat) : Nat :=
  fromBytes ((bytes.drop offset).take length)

/-- One bit through the CRC register (R139). -/
def crcBit (register : BitVec 16) (bit : Bool) : BitVec 16 :=
  if bit != register.msb then (register <<< 1) ^^^ 0x1021#16 else register <<< 1

/-- One byte through the CRC register, most significant bit first (R139). -/
def crcByte (register : BitVec 16) (byte : Byte) : BitVec 16 :=
  (List.range 8).foldl (fun r k => crcBit r (byte.getMsbD k)) register

/-- The CRC of the bytes from LENGTH to the last payload byte, from a register of FFFFh (R139). -/
def frameCrc (bytes : List Byte) : BitVec 16 := bytes.foldl crcByte 0xFFFF#16

/-- SYNC (Table 9-2). -/
def syncByte : Byte := 0xA7

/-- KIND codes (Table 11-1). -/
def kindRequest : Byte := 1
def kindReply : Byte := 2
def kindReport : Byte := 3
def kindAck : Byte := 4

/-- A frame as it is sent: SYNC, LENGTH, KIND, SEQ, payload, CRC high byte first (Table 9-2, R139). -/
def frameBytes (kind seq : Byte) (payload : List Byte) : List Byte :=
  let covered := BitVec.ofNat 8 payload.length :: kind :: seq :: payload
  syncByte :: covered ++ bigEndian 2 (frameCrc covered).toNat

/-- The ten levels of a byte on HRXD and HTXD, one for each bit period: a start bit (low), the eight data bits with the
least significant first, a stop bit (high) (R138). -/
def byteLevels (byte : Byte) : List Bool := false :: (List.range 8).map byte.getLsbD ++ [true]

/-- Baud of the host link rates (Table 0-3). -/
def baud : LinkRate → Nat
  | .b115200 => 115200
  | .b460800 => 460800
  | .b921600 => 921600
  | .b3000000 => 3000000

/-- The rate that LRATE1..0 selects (Table 0-3). -/
def rateOfPins (lrate : BitVec 2) : LinkRate :=
  match lrate.toNat with
  | 0 => .b115200
  | 1 => .b460800
  | 2 => .b921600
  | _ => .b3000000

/-! ### Enumerated fields (Table 11-5), to bytes -/

def yesNoByte (b : Bool) : Byte := if b then 1 else 0

def roleByte : Role → Byte
  | .off => 0 | .receive => 1 | .transmit => 2 | .echo => 3

def rateByte : Rate → Byte
  | .k12_5 => 0 | .k50 => 1 | .k100 => 2 | .k200 => 3

def missRouteByte : MissRoute → Byte
  | .none => 0 | .line => 1 | .merged => 2 | .both => 3

def policyByte : TransmitPolicy → Byte
  | .planFirst => 0 | .queueFirst => 1

def lineStateByte : LineState → Byte
  | .off => 0 | .ready => 1 | .running => 2 | .stopping => 3 | .fault => 4

def notifyByte : Notify → Byte
  | .none => 0 | .each => 1 | .change => 2

def earlyActionByte : EarlyAction → Byte
  | .keep => 0 | .drop => 1

def queuePolicyByte : QueuePolicy → Byte
  | .keepOld => 0 | .keepNew => 1

def slotModeByte : SlotMode → Byte
  | .always => 0 | .onUpdate => 1

def freshnessByte : Freshness → Byte
  | .none => 0 | .idle => 1 | .unseen _ => 2 | .fresh _ => 3 | .stale _ => 4

def reportingByte : ReportingState → Byte
  | .silent => 0 | .active => 1 | .stalled => 2

def resetCauseByte : ResetCause → Byte
  | .power => 0 | .request => 1

/-- Error kinds: 1 CHECK, 2 LENGTH, 3 CODE (Table 11-6). -/
def errorKindCode : ErrorKind → Nat
  | .check => 1 | .length => 2 | .code => 3

/-- An optional field whose range starts at 1 encodes absent as 0 (R173). -/
def optionalNumber (x : Option Nat) : Nat := x.getD 0

/-- A field paired with a present byte: 0 with its present byte 0 when absent (R172). -/
def presentField (length : Nat) (x : Option Nat) : List Byte :=
  yesNoByte x.isSome :: bigEndian length (x.getD 0)

/-! ### Enumerated fields, from bytes; `none` is a value the field does not define (RANGE, R173) -/

/-- A field of R173's list takes its default when its byte is FFh. -/
def orDefault {α : Type} (default : α) (read : Byte → Option α) (b : Byte) : Option α :=
  if b = 0xFF then some default else read b

/-- A two-byte field of R173's list takes its default when both bytes are FFh. -/
def orDefault16 (default : Nat) (n : Nat) : Nat := if n = 0xFFFF then default else n

def yesNoOf (b : Byte) : Option Bool :=
  match b.toNat with
  | 0 => some false
  | 1 => some true
  | _ => none

def roleOf (b : Byte) : Option Role :=
  match b.toNat with
  | 0 => some .off | 1 => some .receive | 2 => some .transmit | 3 => some .echo
  | _ => none

def rateOf (b : Byte) : Option Rate :=
  match b.toNat with
  | 0 => some .k12_5 | 1 => some .k50 | 2 => some .k100 | 3 => some .k200
  | _ => none

def missRouteOf (b : Byte) : Option MissRoute :=
  match b.toNat with
  | 0 => some .none | 1 => some .line | 2 => some .merged | 3 => some .both
  | _ => none

def policyOf (b : Byte) : Option TransmitPolicy :=
  match b.toNat with
  | 0 => some .planFirst | 1 => some .queueFirst
  | _ => none

/-- Echo threshold, 1 to 15 (Table 8-2). -/
def thresholdOf (b : Byte) : Option Nat :=
  if 1 ≤ b.toNat ∧ b.toNat ≤ 15 then some b.toNat else none

def notifyOf (b : Byte) : Option Notify :=
  match b.toNat with
  | 0 => some .none | 1 => some .each | 2 => some .change
  | _ => none

def earlyActionOf (b : Byte) : Option EarlyAction :=
  match b.toNat with
  | 0 => some .keep | 1 => some .drop
  | _ => none

def stopModeOf (b : Byte) : Option StopMode :=
  match b.toNat with
  | 0 => some .drain | 1 => some .discard
  | _ => none

def queuePolicyOf (b : Byte) : Option QueuePolicy :=
  match b.toNat with
  | 0 => some .keepOld | 1 => some .keepNew
  | _ => none

def slotModeOf (b : Byte) : Option SlotMode :=
  match b.toNat with
  | 0 => some .always | 1 => some .onUpdate
  | _ => none

/-- Route: bit 0 LINE, bit 1 MERGED, any other bit out of range (R173). -/
def routeOf (b : Byte) : Option (Bool × Bool) :=
  if b.toNat < 4 then some (b.getLsbD 0, b.getLsbD 1) else none

/-- A line number 0 to 11. -/
def lineOf (b : Byte) : Option LineNo :=
  if h : b.toNat < 12 then some ⟨b.toNat, h⟩ else none

/-- A queue or stream number 0 to 12. -/
def queueOf (b : Byte) : Option QueueNo :=
  if h : b.toNat < 13 then some ⟨b.toNat, h⟩ else none

/-- A slot index 0 to 383 (R94). -/
def slotOf (n : Nat) : Option SlotNo :=
  if h : n < 384 then some ⟨n, h⟩ else none

/-- A tag 0 to 4095. -/
def tagOf (n : Nat) : Option Tag :=
  if n ≤ 4095 then some (BitVec.ofNat 12 n) else none

/-- The line byte of a key: 0 to 11, or 12 for ANY (R173). -/
def keyLineOf (b : Byte) : Option KeyLine :=
  if h : b.toNat < 12 then some (.port ⟨b.toNat, h⟩) else if b.toNat = 12 then some .any else none

/-- A key of 3 bytes at an offset: line 1, tag 2 (section 11.2). -/
def keyOf (fields : List Byte) (offset : Nat) : Option Key := do
  let line ← keyLineOf (byteAt fields offset)
  let tag ← tagOf (numberAt fields (offset + 1) 2)
  some { line, tag }

/-- A deadline or min interval: FFFFh or 0 absent, else 1 to 60,000 ms (R21, R173; notes/assumptions/12.md). -/
def optionalMsOf (n : Nat) : Option (Option Nat) :=
  if n = 0xFFFF ∨ n = 0 then some none
  else if n ≤ 60000 then some (some n) else none

/-- The entry settings of 10 bytes at an offset (section 11.2), each field judged by itself (R21, R173). -/
def entrySettingsOf (fields : List Byte) (offset : Nat) : Option EntrySettings := do
  let route ← orDefault (true, false) routeOf (byteAt fields offset)
  let keepLatest ← orDefault false yesNoOf (byteAt fields (offset + 1))
  let onChange ← orDefault false yesNoOf (byteAt fields (offset + 2))
  let notify ← orDefault .none notifyOf (byteAt fields (offset + 3))
  let deadline ← optionalMsOf (numberAt fields (offset + 4) 2)
  let minInterval ← optionalMsOf (numberAt fields (offset + 6) 2)
  let earlyAction ← orDefault .keep earlyActionOf (byteAt fields (offset + 8))
  let notifyEarly ← orDefault false yesNoOf (byteAt fields (offset + 9))
  some { routeLine := route.1, routeMerged := route.2, keepLatest, onChange, notify, deadline, minInterval,
         earlyAction, notifyEarly }

/-- R21's conditions between fields: an ANY entry has neither a deadline nor a min interval, and on change requires
keep latest. -/
def EntrySettings.allowedFor (settings : EntrySettings) (key : Key) : Bool :=
  (key.line != .any || (settings.deadline.isNone && settings.minInterval.isNone)) &&
    (!settings.onChange || settings.keepLatest)

/-- The line configuration of 8 bytes at an offset, in the order of Table 8-2 (section 11.2, R173). -/
def lineConfigOf (fields : List Byte) (offset : Nat) : Option LineConfig := do
  let role ← orDefault .off roleOf (byteAt fields offset)
  let rate ← orDefault .k50 rateOf (byteAt fields (offset + 1))
  let captureErrors ← orDefault false yesNoOf (byteAt fields (offset + 2))
  let errorNotice ← orDefault false yesNoOf (byteAt fields (offset + 3))
  let missRoute ← orDefault .none missRouteOf (byteAt fields (offset + 4))
  let policy ← orDefault .planFirst policyOf (byteAt fields (offset + 5))
  let echoThreshold ← orDefault 3 thresholdOf (byteAt fields (offset + 6))
  let keepEcho ← orDefault false yesNoOf (byteAt fields (offset + 7))
  some { role, rate, captureErrors, errorNotice, missRoute, policy, echoThreshold, keepEcho }

/-- The slot settings without the line, 15 bytes at an offset (section 11.2, R94, R173). -/
def slotSettingsOf (fields : List Byte) (offset : Nat) : Option SlotSettings := do
  let tag ← tagOf (numberAt fields offset 2)
  let value := BitVec.ofNat 24 (numberAt fields (offset + 2) 3)
  let period := numberAt fields (offset + 5) 2
  let phase := orDefault16 0 (numberAt fields (offset + 7) 2)
  let mode ← orDefault .always slotModeOf (byteAt fields (offset + 9))
  let limit := numberAt fields (offset + 10) 2
  let enabled ← orDefault true yesNoOf (byteAt fields (offset + 12))
  let notifyMiss ← orDefault false yesNoOf (byteAt fields (offset + 13))
  let notifyDone ← orDefault false yesNoOf (byteAt fields (offset + 14))
  if 5 ≤ period ∧ phase < period then
    some { tag, value, period, phase, mode, limit := if limit = 0 then none else some limit, enabled, notifyMiss,
           notifyDone }
  else none

/-- The first `count` word places of SEND, 5 bytes each: tag 2, value 3 (R102). -/
def sendWordsOf (places : List Byte) : Nat → Option (List OneOff)
  | 0 => some []
  | count + 1 => do
    let tag ← tagOf (numberAt places 0 2)
    let rest ← sendWordsOf (places.drop 5) count
    some ({ tag, value := BitVec.ofNat 24 (numberAt places 2 3) } :: rest)

/-! ### Requests and replies -/

/-- Statuses (R149). -/
inductive Status where
  | ok | busy | unknown | format | range | state | full | absent | exists
  deriving DecidableEq, Repr

/-- Status codes (Table 11-2). -/
def statusByte : Status → Byte
  | .ok => 0 | .busy => 1 | .unknown => 2 | .format => 3 | .range => 4 | .state => 5 | .full => 6 | .absent => 7
  | .exists => 8

/-- A row of Table 11-3: request kind code, payload length, and the row of the command table that carries it out. -/
structure RequestRow where
  code : Byte
  length : Nat
  command : Instr
  deriving DecidableEq, Repr

/-- Table 11-3. The code 03h stands twice, RESET in its two scopes. -/
def requestTable : List RequestRow :=
  [⟨0x01, 1, .identify⟩, ⟨0x02, 1, .getStatus⟩, ⟨0x03, 2, .resetTraffic⟩, ⟨0x03, 2, .resetFull⟩,
   ⟨0x10, 10, .configureLine⟩, ⟨0x11, 2, .startLine⟩, ⟨0x12, 3, .stopLine⟩, ⟨0x13, 3, .readLine⟩,
   ⟨0x14, 2, .clearFault⟩] ++
  [⟨0x20, 14, .addTag⟩, ⟨0x21, 14, .changeTag⟩, ⟨0x22, 4, .removeTag⟩, ⟨0x23, 5, .readTag⟩, ⟨0x24, 5, .listTags⟩,
   ⟨0x25, 2, .clearTags⟩, ⟨0x30, 5, .setQueue⟩, ⟨0x31, 3, .readQueue⟩] ++
  [⟨0x40, 9, .setTime⟩, ⟨0x41, 11, .armTime⟩, ⟨0x42, 1, .cancelArm⟩, ⟨0x43, 1, .readTime⟩,
   ⟨0x44, 2, .setPulseNotice⟩] ++
  [⟨0x50, 19, .addSlot⟩, ⟨0x51, 18, .changeSlot⟩, ⟨0x52, 6, .setValue⟩, ⟨0x53, 3, .removeSlot⟩,
   ⟨0x54, 4, .readSlot⟩, ⟨0x55, 83, .send⟩] ++
  [⟨0x60, 4, .startReports⟩, ⟨0x61, 1, .stopReports⟩, ⟨0x62, 1, .resync⟩, ⟨0x63, 5, .subscribe⟩,
   ⟨0x64, 2, .unsubscribe⟩, ⟨0x65, 2, .flush⟩]

/-- The row of the command table that carries a request out. An empty payload or an undefined kind is UNKNOWN_REQUEST's
(R172). Of RESET, RESET_FULL takes the scope FULL (00h) and RESET_TRAFFIC every other request of the kind, malformed
ones among them (R152; notes/assumptions/13.md). -/
def requestCommand : List Byte → Instr
  | [] => .unknownRequest
  | kind :: fields =>
    if kind = 0x03 then (if fields.head? = some 0x00 then .resetFull else .resetTraffic)
    else ((requestTable.find? fun row => row.code == kind).map RequestRow.command).getD .unknownRequest

/-- The payload length Table 11-3 gives for a request row. -/
def requestLength (command : Instr) : Nat :=
  ((requestTable.find? fun row => row.command == command).map RequestRow.length).getD 0

/-- Tag Table requests, which wait while the Tag Table is busy (R33). -/
def isTagRequest : Instr → Bool
  | .addTag | .changeTag | .removeTag | .readTag | .listTags | .clearTags => true
  | _ => false

/-- The payload of a reply: request kind byte (00h for an empty payload), status, results (R172). -/
def replyPayload (requestPayload : List Byte) (status : Status) (results : List Byte) : List Byte :=
  byteAt requestPayload 0 :: statusByte status :: results

/-! ### Records, notices and reports -/

/-- Record flags (Table 11-6). -/
def flagsByte (f : RecordFlags) : Byte :=
  BitVec.ofNat 8 (f.early.toNat + 2 * f.first.toNat + 4 * f.changed.toNat + 8 * f.any.toNat + 16 * f.miss.toNat +
    32 * f.own.toNat)

/-- The ERROR_WORD detail byte: error kind in bits 7 to 6, recorded count in bits 5 to 0, 63 for any higher count
(Table 11-6, R174). -/
def errorDetail (kind : ErrorKind) (count : Nat) : Nat := errorKindCode kind * 64 + min count 63

/-- MARK reasons (Table 11-6). -/
def markReasonCode : MarkReason → Byte
  | .timeSet => 1 | .timeAligned => 2 | .lineStart => 3

/-- Kind, flags and detail bytes of a record and where the line byte stands between them (Table 11-6). -/
def recordHead (body : RecordBody) (line : QueueNo) : List Byte :=
  match body with
  | .word flags => [1, flagsByte flags, BitVec.ofNat 8 line.val, 0]
  | .errorWord kind count => [2, 0, BitVec.ofNat 8 line.val, BitVec.ofNat 8 (errorDetail kind count)]
  | .mark reason => [3, 0, BitVec.ofNat 8 line.val, markReasonCode reason]

/-- A record in its 19 bytes (Table 11-6). -/
def recordBytes (r : CaptureRecord) : List Byte :=
  recordHead r.body r.line ++ bigEndian 2 (lineTag r.bits).toNat ++ bigEndian 3 (lineValue r.bits).toNat ++
    bigEndian 1 (lineCheck r.bits).toNat ++ [r.stamp.epoch] ++ bigEndian 8 r.stamp.time

/-- Notice kind codes (Table 11-7). -/
def noticeCode : NoticeBody → Byte
  | .stale _ _ => 1
  | .freshAgain _ => 2
  | .early _ _ => 3
  | .change _ _ => 4
  | .lineError _ _ => 5
  | .queueFull _ => 6
  | .slotMiss _ _ => 7
  | .slotDone _ => 8
  | .echoMismatch _ _ => 9
  | .lineFault _ _ _ => 10
  | .pulse _ _ => 11
  | .timeAligned _ => 12
  | .armExpired _ => 13

/-- Judgement and error kind of an ECHO_MISMATCH or LINE_FAULT detail with the consecutive count: bits 23 to 0
(Table 11-7). MATCH has no code and never stands in a notice. -/
def mismatchDetail (judgement : Judgement) (consecutive : Nat) : Nat :=
  let codes : Nat × Nat :=
    match judgement with
    | .matched => (0, 0)
    | .different => (1, 0)
    | .error kind => (2, errorKindCode kind)
    | .missing => (3, 0)
  codes.1 * 0x10000 + codes.2 * 0x100 + consecutive % 256

/-- The 32-bit detail of a notice (Table 11-7, R174). -/
def noticeDetail : NoticeBody → Nat
  | .stale leftFresh deadline => (if leftFresh then 3 else 2) * 0x1000000 + deadline
  | .freshAgain ms => ms
  | .early action interval => (earlyActionByte action).toNat * 0x80000000 + interval
  | .change changed value => changed.toNat * 0x1000000 + value.toNat
  | .lineError kind count => errorDetail kind count
  | .queueFull depth => depth
  | .slotMiss index age => index.val * 0x10000 + age
  | .slotDone index => index.val
  | .echoMismatch judgement consecutive => mismatchDetail judgement consecutive
  | .lineFault stopping judgement consecutive => stopping.toNat * 0x1000000 + mismatchDetail judgement consecutive
  | .pulse loaded edges => loaded.toNat * 0x80000000 + min edges 0x7FFFFFFF
  | .timeAligned ms => ms
  | .armExpired ms => ms

/-- A notice in its 17 bytes (Table 11-7); no line is 255. -/
def noticeBytes (n : Notice) : List Byte :=
  [noticeCode n.body, BitVec.ofNat 8 ((n.line.map Fin.val).getD 255)] ++ bigEndian 2 n.tag.toNat ++
    bigEndian 4 (noticeDetail n.body) ++ [n.stamp.epoch] ++ bigEndian 8 n.stamp.time

/-- The payload of a notice report (Table 11-8). -/
def noticeReportPayload (list : List Notice) (loss : Nat) : List Byte :=
  [2, BitVec.ofNat 8 list.length] ++ bigEndian 2 loss ++ (list.map noticeBytes).flatten

/-- The payload of a data report (Table 11-8). -/
def dataReportPayload (stream : QueueNo) (records : List CaptureRecord) (loss : Nat) : List Byte :=
  [1, BitVec.ofNat 8 stream.val, BitVec.ofNat 8 records.length] ++ bigEndian 4 loss ++
    (records.map recordBytes).flatten

/-! ### Settings as replies carry them, as held and never as a default encoding (R173) -/

/-- Line configuration, 8 bytes (section 11.2). -/
def lineConfigBytes (c : LineConfig) : List Byte :=
  [roleByte c.role, rateByte c.rate, yesNoByte c.captureErrors, yesNoByte c.errorNotice, missRouteByte c.missRoute,
   policyByte c.policy, BitVec.ofNat 8 c.echoThreshold, yesNoByte c.keepEcho]

/-- Entry settings, 10 bytes (section 11.2). -/
def entrySettingsBytes (t : EntrySettings) : List Byte :=
  [BitVec.ofNat 8 (t.routeLine.toNat + 2 * t.routeMerged.toNat), yesNoByte t.keepLatest, yesNoByte t.onChange,
   notifyByte t.notify] ++ bigEndian 2 (optionalNumber t.deadline) ++ bigEndian 2 (optionalNumber t.minInterval) ++
    [earlyActionByte t.earlyAction, yesNoByte t.notifyEarly]

/-- Slot settings with the line, 16 bytes (section 11.2). -/
def slotSettingsBytes (line : LineNo) (t : SlotSettings) : List Byte :=
  [BitVec.ofNat 8 line.val] ++ bigEndian 2 t.tag.toNat ++ bigEndian 3 t.value.toNat ++ bigEndian 2 t.period ++
    bigEndian 2 t.phase ++ [slotModeByte t.mode] ++ bigEndian 2 (optionalNumber t.limit) ++
    [yesNoByte t.enabled, yesNoByte t.notifyMiss, yesNoByte t.notifyDone]

/-- The line byte of a key: 12 for ANY (section 11.2). -/
def KeyLine.number : KeyLine → Nat
  | .port line => line.val
  | .any => 12

/-- The place of a key in listing order (R20): lines 0 to 11, then ANY, then ascending tag. -/
def Key.rank (key : Key) : Nat := key.line.number * 4096 + key.tag.toNat

/-- A key in its 3 bytes (section 11.2). -/
def keyBytes (key : Key) : List Byte := BitVec.ofNat 8 key.line.number :: bigEndian 2 key.tag.toNat

/-- The ten per-line counters in the order of R15. -/
def lineCounterBytes (c : LineCounters) : List Byte :=
  ([c.wordsReceived, c.checkErrors, c.lengthErrors, c.codeErrors, c.cutWords, c.intakeOverruns, c.wordsSent,
    c.echoMismatches, c.foreignWords, c.misses].map fun n => bigEndian 4 n.toNat).flatten

/-- The eight link counters in the order of R154. -/
def linkCounterBytes (c : LinkCounters) : List Byte :=
  ([c.byteErrors, c.timeouts, c.lengthErrors, c.crcErrors, c.kindErrors, c.duplicates, c.busyRefusals,
    c.busyDropped].map fun n => bigEndian 4 n.toNat).flatten

end Sys2Proof.Machine
end

