-- ==== Sys2Proof/Machine/Flags.lean ====
section
/-! DEFINITION. Conditions that the spec defines from the state and that the part does not store: which drivers and
receivers are active (R5), ATTN (R171), free pool slots (R57), a stream's news and readiness (R156, R157), which slots
can come due (R96), what the drivers and HTXD show (R3, R13, R138), when a happening that the run clock brings about is
due. -/

namespace Sys2Proof.Machine

/-! ### Reading one port, queue or stream -/

/-- The port and line of a number. -/
def State.port (s : State) (n : LineNo) : Port := s.ports[n]

/-- The capture queue of a number. -/
def State.queue (s : State) (n : QueueNo) : CaptureQueue := s.queues[n]

/-- The stream of a number. -/
def State.stream (s : State) (n : QueueNo) : StreamState := s.reports.streams[n]

/-- The line queue of a line (00_scope.md section 5, "Queue and stream numbers"). -/
def lineQueue (n : LineNo) : QueueNo := n.castSucc

/-- The merged queue. -/
def mergedQueue : QueueNo := 12

/-! ### Lines -/

/-- R5: the driver is active while the role is TRANSMIT or ECHO and the line is RUNNING or STOPPING. -/
def Port.driverActive (p : Port) : Bool :=
  (p.config.role == .transmit || p.config.role == .echo) && (p.state == .running || p.state == .stopping)

/-- R5: the receiver is active while RUNNING with role RECEIVE, or RUNNING or STOPPING with role ECHO. -/
def Port.receiverActive (p : Port) : Bool :=
  (p.config.role == .receive && p.state == .running) ||
    (p.config.role == .echo && (p.state == .running || p.state == .stopping))

/-- R41: the line is RUNNING with role RECEIVE, so its exact entries with a deadline are monitored. -/
def Port.monitoring (p : Port) : Bool := p.config.role == .receive && p.state == .running

/-- R96: the line is RUNNING with role TRANSMIT or ECHO, so its enabled slots come due. -/
def Port.servesPlan (p : Port) : Bool :=
  (p.config.role == .transmit || p.config.role == .echo) && p.state == .running

/-- Whether a word is part-way through the receiver (R6). -/
def Receiver.midWord : Receiver → Bool
  | .inWord _ _ | .discarding _ _ => true
  | .dormant | .idle _ => false

/-- R133: a stop ends when the transmitter is FREE and, under DRAIN, the send queue is empty. -/
def Port.stopCanEnd (p : Port) : Bool :=
  p.state == .stopping && p.transmitter == .free &&
    match p.stop with
    | some stop => stop.mode == .discard || p.sendQueue.isEmpty
    | none => p.sendQueue.isEmpty

/-- R103: the line is RUNNING, or STOPPING under DRAIN, and its transmitter is FREE. -/
def Port.mayStartWord (p : Port) : Bool :=
  p.transmitter == .free &&
    (p.state == .running || (p.state == .stopping && p.stop.map StopInProgress.mode == some .drain))

/-- The 80 half-bits of a word in the order the driver sends them, each for half a bit time (R1, R3). -/
def wordSenses (word : LineBits) : List Polarity := (wordHalfBits word).flatMap fun halves => [halves.1, halves.2]

/-- Whole half bit times since a word on the wire began: SENDING ends 40 bit times after its start (R13). -/
def State.halfBitTimes (s : State) (line : LineNo) (ends : Nat) : Nat :=
  2 * (s.time.runClock + 40 * bitTime (s.port line).config.rate - ends) / bitTime (s.port line).config.rate

/-- What the driver of a line does to its pair: in SENDING it sends the half-bit of the word whose time it is, and holds
null once all 80 are sent (notes/assumptions/26.md); in SPACING and FREE it holds null; in DORMANT and while RSTn is low
it is released (R3, R5, R13, R14, R137). -/
def State.drive (s : State) (line : LineNo) : Drive :=
  match (s.port line).transmitter with
  | .dormant => .released
  | .free | .spacing _ _ => if s.held then .released else .null
  | .sending word ends =>
    if s.held then .released else ((wordSenses word)[s.halfBitTimes line ends]?.map Drive.sends).getD .null

/-! ### Time -/

/-- The stamp of this moment: line time and epoch as one pair (R82). -/
def State.now (s : State) : Stamp := ⟨s.time.lineTime, s.time.epoch⟩

/-- Whether a run clock time has been reached. -/
def State.reached (s : State) (moment : Nat) : Bool := decide (moment ≤ s.time.runClock)

/-- R88: the time base is ARMED and the run clock has reached the arm expiry. -/
def State.armExpiryDue (s : State) : Bool :=
  match s.time.arm with
  | some arm => s.reached arm.expiry
  | none => false

/-- R89: an edge is taken when none was taken before or the last is at least 500,000 µs back. -/
def TimeBase.edgeTaken (t : TimeBase) : Bool :=
  match t.lastEdge with
  | none => true
  | some last => decide (last + Config.pulseSpacing ≤ t.runClock)

/-! ### The Tag Table -/

/-- The expiry time a freshness state holds, in UNSEEN and FRESH (R41). -/
def Freshness.expiry : Freshness → Option Nat
  | .unseen e | .fresh e => some e
  | .none | .idle | .stale _ => Option.none

/-- R46: the run clock has reached the expiry time of the entry. -/
def State.expiryDue (s : State) (e : Entry) : Bool :=
  match e.freshness.expiry with
  | some t => s.reached t
  | none => false

/-- R46: an expiry time lies in the past, so the expiry waited for the Tag Table's work and is the next happening at
its entry (notes/assumptions/10.md). -/
def State.expiryWaits (s : State) : Bool :=
  s.tags.any fun e =>
    match e.freshness.expiry with
    | some t => decide (t < s.time.runClock)
    | none => false

/-- The Tag Table is free for a request: not busy (R33), and no expiry waits to be taken first (R46). -/
def State.tagTableFree (s : State) : Bool := s.busy.isNone && !s.expiryWaits

/-- R33: a Tag Table request waits at the executor for the Tag Table's work. -/
def State.tagRequestWaits (s : State) : Bool :=
  match s.link.executing with
  | some e => e.hold == .atTagTable
  | none => false

/-- R18: the Tag Table takes the next item when it holds one and is not busy, after any request or expiry that
waited for its work. -/
def State.mayTakeItem (s : State) : Bool :=
  !s.held && s.tagTableFree && !s.tagRequestWaits && !s.intake.isEmpty

/-- R18: the earliest end of the Tag Table's work is 1 µs after the take. -/
def Busy.mayEndAt (b : Busy) : Nat := b.takenAt + 1

/-- R18: the work on an item takes from 1 µs to 40 µs; which of these is the free value `Config.tagTableWork`
(notes/assumptions/5.md). -/
def Busy.doneBy (b : Busy) : Nat := b.takenAt + 1 + Config.tagTableWork b.item.bits.toNat b.takenAt % 40

/-! ### Capture queues and streams -/

/-- Number of waiting records: those behind the in-flight run (R68). -/
def CaptureQueue.waiting (q : CaptureQueue) : Nat := q.records.length - q.inFlight

/-- R156: a stream has news while its queue holds a waiting record or its pending loss is above 0. -/
def CaptureQueue.hasNews (q : CaptureQueue) : Bool := decide (0 < q.waiting) || decide (0 < q.pendingLoss)

/-- Sum of the depths of the line queues other than `n` (R75, "the depths of the other eleven line queues"). -/
def State.otherDepths (s : State) (n : QueueNo) : Nat :=
  (((List.finRange 12).filter fun m => lineQueue m ≠ n).map fun m => (s.queue (lineQueue m)).depth).sum

/-- R57: free pool slots are 8,192 minus the sum of the twelve line queue depths. -/
def State.freePool (s : State) : Nat :=
  Config.poolRecords - ((List.finRange 12).map fun m => (s.queue (lineQueue m)).depth).sum

/-- R156: the hold of a stream has run out while it has news and the run clock is at or past hold start plus hold. -/
def State.holdRunOut (s : State) (n : QueueNo) : Bool :=
  (s.queue n).hasNews &&
    match (s.stream n).holdStart with
    | some start => s.reached (start + (s.stream n).hold * 1000)
    | none => false

/-- R157: when a stream is ready. It is read from the queue as it stands, so a depth change that discards the waiting
records ends the readiness they gave, which R157 does not say either way (DESIGN CHOICE; notes/assumptions/30.md). -/
def State.streamReady (s : State) (n : QueueNo) : Bool :=
  (s.stream n).subscribed &&
    (decide ((s.stream n).batch ≤ (s.queue n).waiting) || s.holdRunOut n ||
      ((s.queue n).hasNews && (s.stream n).flushPending))

/-- R162: the streams in the order that begins with the one after the stream last served. -/
def servingOrder (last : QueueNo) : List QueueNo :=
  (List.range 13).map fun k => Fin.ofNat 13 (last.val + 1 + k)

/-- R162: the first ready stream in turn. -/
def State.nextStream (s : State) : Option QueueNo := (servingOrder s.reports.lastServed).find? s.streamReady

/-- R161: the notice queue holds something to form. -/
def State.noticesToForm (s : State) : Bool := !s.reports.notices.isEmpty || decide (0 < s.reports.noticeLoss)

/-- R161: a report is formed while ACTIVE, with a free report slot and something to form. -/
def State.mayForm (s : State) : Bool :=
  !s.held && s.reports.state == .active && decide (s.reports.window.length < Config.windowReports) &&
    (s.noticesToForm || s.nextStream.isSome)

/-- R163: while ACTIVE the report unit offers the oldest report that is due. -/
def State.offeredReport (s : State) : Option Report :=
  if s.reports.state = .active then s.reports.window.find? Report.due else none

/-- R166: the retransmission timer runs only in ACTIVE (R165) and has run out. -/
def State.retransmitDue (s : State) : Bool :=
  s.reports.state == .active &&
    match s.reports.timer with
    | some t => s.reached t
    | none => false

/-- R171: ATTN is asserted exactly while reporting is STALLED or some line is in FAULT. -/
def State.attn (s : State) : Bool :=
  s.reports.state == .stalled || (List.finRange 12).any fun n => (s.port n).state == .fault

/-! ### The Transmit Plan -/

/-- R96: a slot can come due while it is enabled and its line is RUNNING with role TRANSMIT or ECHO. -/
def State.canComeDue (s : State) (line : LineNo) (settings : SlotSettings) : Bool :=
  settings.enabled && (s.port line).servesPlan

/-- R96: the first grid point of T0 + (phase + k × period) × 100 µs that is at or after `now`. -/
def gridPoint (t0 : Nat) (settings : SlotSettings) (now : Nat) : Nat :=
  let base := t0 + settings.phase * 100
  let step := settings.period * 100
  base + (now - base + (step - 1)) / step * step

/-- The next due time a slot takes when it begins to be able to come due (R96); absent where it cannot. -/
def State.joinGrid (s : State) (line : LineNo) (settings : SlotSettings) : Option Nat :=
  if s.canComeDue line settings then
    (s.port line).t0.map fun t0 => gridPoint t0 settings s.time.runClock
  else none

/-- R98: the run clock has reached the slot's next due time. -/
def State.slotDue (s : State) (slot : Slot) : Bool :=
  match slot.nextDue with
  | some t => s.reached t
  | none => false

/-! ### The host link -/

/-- Whole bit periods of the host link since a frame started (R138, Table 0-3). -/
def State.bitPeriods (s : State) (f : TransmitFrame) : Nat :=
  (s.time.runClock - f.startedAt) * baud s.link.rate / 1000000

/-- The level of HTXD, `true` for high: that of the bit of the frame being sent, byte after byte without idle time, and
high between frames and while RSTn is low (R138, R147). -/
def State.htxd (s : State) : Bool :=
  match s.link.transmitter with
  | some f => s.held || ((f.bytes.map byteLevels).flatten[s.bitPeriods f]?).getD true
  | none => true

/-- R147: the link transmitter has sent the frame when its bytes have taken their 10 bit periods each (R138). -/
def State.frameSent (s : State) (f : TransmitFrame) : Bool :=
  decide (f.bytes.length * 10 * 1000000 ≤ (s.time.runClock - f.startedAt) * baud s.link.rate)

/-- R141: no start bit within 2,000 µs after the last byte completed, in HEADER or BODY. -/
def State.byteGapRunOut (s : State) : Bool :=
  match s.link.receiver with
  | .hunt => false
  | .header _ lastAt started | .body _ lastAt started => !started && s.reached (lastAt + Config.interByteGap)

/-- R148: the executor may take a request: none in execution, one waiting, fewer than 8 replies listed. -/
def State.mayTakeRequest (s : State) : Bool :=
  s.link.executing.isNone && !s.link.requests.isEmpty && decide (s.link.replies.length < Config.listedReplies)

/-- R153: RESET(FULL) waits only for the reset to take effect; nothing more is sent. -/
def State.resetDue (s : State) : Bool :=
  s.link.executing.map Executing.hold == some .resetDue

end Sys2Proof.Machine
end

