-- ==== Sys2Proof/Machine/Ops.lean ====
section
/-! DEFINITION. The operations that happenings share: writing one port or queue, notices, offers to capture queues,
the arrival intake, loads of line time, starting and stopping what a line uses, judging a read-back, and the request
executor. Each is a total function of the state; a happening is a composition of them. -/

namespace Sys2Proof.Machine

/-- The outcome of a happening: it takes place unless RSTn is low, when every block is held at its power-on values
(R137; notes/assumptions/20.md). -/
def State.happen (effect : State → State) (s : State) : Host.Outcome State Fault Refusal :=
  .next (if s.held then s else effect s)

/-! ### Writing one port, queue or stream -/

/-- The state with one port replaced. -/
def State.withPort (n : LineNo) (p : Port) (s : State) : State :=
  { s with ports := s.ports.set n.val p n.isLt }

/-- The state with one port changed. -/
def State.mapPort (n : LineNo) (f : Port → Port) (s : State) : State := s.withPort n (f (s.port n))

/-- The state with the counters of a line changed (R15). -/
def State.countLine (n : LineNo) (f : LineCounters → LineCounters) (s : State) : State :=
  s.mapPort n fun p => { p with counters := f p.counters }

/-- The state with one stream replaced. -/
def State.withStream (n : QueueNo) (t : StreamState) (s : State) : State :=
  { s with reports := { s.reports with streams := s.reports.streams.set n.val t n.isLt } }

/-- The hold start of a stream after its queue changed at `now`: news gained starts a hold period, news lost ends it
(R156). -/
def holdStartAfter (q : CaptureQueue) (held : Option Nat) (now : Nat) : Option Nat :=
  if q.hasNews then some (held.getD now) else none

/-- The state with one capture queue replaced, and the hold start of its stream following the stream's news (R156).
Every write of a queue goes through here. -/
def State.withQueue (n : QueueNo) (q : CaptureQueue) (s : State) : State :=
  let s1 := { s with queues := s.queues.set n.val q n.isLt }
  s1.withStream n { s.stream n with holdStart := holdStartAfter q (s.stream n).holdStart s.time.runClock }

/-- A sum that saturates. -/
def saturate (largest a b : Nat) : Nat := min largest (a + b)

/-- One microsecond passes: the run clock and line time count (R80, R81). While RSTn is low the run clock holds 0. -/
def State.tick (s : State) : State :=
  if s.held then s
  else { s with time := { s.time with runClock := s.time.runClock + 1, lineTime := s.time.lineTime + 1 } }

/-! ### Notices (R155) -/

/-- A notice is queued: it enters at the back, or is lost to the saturating notice pending loss where 64 are held. -/
def State.queueNotice (notice : Notice) (s : State) : State :=
  if s.reports.notices.length < Config.noticeQueue then
    { s with reports := { s.reports with notices := s.reports.notices ++ [notice] } }
  else { s with reports := { s.reports with noticeLoss := saturate Config.max16 s.reports.noticeLoss 1 } }

/-- A notice is queued where its switch is on. -/
def State.queueNoticeIf (switch : Bool) (notice : Notice) (s : State) : State :=
  if switch then s.queueNotice notice else s

/-! ### Offers to capture queues (R63 to R67, R73) -/

/-- Records are lost: lost total and pending loss rise, pending loss saturating (R64, R72). -/
def CaptureQueue.lose (count : Nat) (q : CaptureQueue) : CaptureQueue :=
  { q with lostTotal := q.lostTotal + BitVec.ofNat 32 count
           pendingLoss := saturate Config.max32 q.pendingLoss count }

/-- R73: the next append fills the queue and finds its full notice armed. -/
def CaptureQueue.aboutToFill (q : CaptureQueue) : Bool := q.records.length + 1 == q.depth && q.armed

/-- A queue after a record was offered to it: appended where there is room (R63), else lost under KEEP_OLD (R64), else
in place of the oldest waiting record, or lost itself where every record is in flight (R65, R66). -/
def CaptureQueue.offer (r : CaptureRecord) (q : CaptureQueue) : CaptureQueue :=
  let q1 := { q with offered := q.offered + 1 }
  if q.records.length < q.depth then
    { q1 with records := q.records ++ [r], armed := q.armed && !q.aboutToFill }
  else match q.policy with
    | .keepOld => q1.lose 1
    | .keepNew =>
      if q.inFlight < q.records.length then
        { q1.lose 1 with records := q.records.take q.inFlight ++ q.records.drop (q.inFlight + 1) ++ [r] }
      else q1.lose 1

/-- A record is offered to a queue, with the QUEUE_FULL notice of an append that fills it (R63, R73). -/
def State.offer (n : QueueNo) (r : CaptureRecord) (s : State) : State :=
  (s.withQueue n ((s.queue n).offer r)).queueNoticeIf (s.queue n).aboutToFill
    { body := .queueFull (s.queue n).depth, line := some n, tag := 0, stamp := r.stamp }

/-- A MARK record for a queue (R61). -/
def markRecord (n : QueueNo) (reason : MarkReason) (stamp : Stamp) : CaptureRecord :=
  { body := .mark reason, line := n, bits := 0, stamp }

/-- The MARK of a load is offered to a queue, but not to a line queue of depth 0 (R61, R66, R83). -/
def State.offerLoadMark (reason : MarkReason) (stamp : Stamp) (s : State) (n : QueueNo) : State :=
  if n ≠ mergedQueue ∧ (s.queue n).depth = 0 then s else s.offer n (markRecord n reason stamp)

/-- A load of line time: the value, the next epoch, and a MARK to each queue in ascending number (R83). -/
def State.load (value : Nat) (reason : MarkReason) (s : State) : State :=
  let s1 := { s with time := { s.time with lineTime := value, epoch := s.time.epoch + 1 } }
  (List.finRange 13).foldl (State.offerLoadMark reason s1.now) s1

/-- LINE_START MARKs, with the stamps of their starts, are offered to a line's queue (R62, R129). -/
def State.offerStartMarks (line : LineNo) (stamps : List Stamp) (s : State) : State :=
  stamps.foldl (fun s stamp => s.offer (lineQueue line) (markRecord (lineQueue line) .lineStart stamp)) s

/-! ### The arrival intake (R16, R17) -/

/-- The loads of line time since a stamp was taken, where `epoch` is in force now (R81). -/
def Stamp.loadsSince (stamp : Stamp) (epoch : Byte) : Nat := (epoch - stamp.epoch).toNat

/-- Of two items offered in one microsecond, `a` enters before `b`: the one stamped before a load of line time before
the one stamped after it (R16, R84), else the one of the lower port (R16). DESIGN CHOICE: the port decides also where
one of them is an echo capture that was held, with an older stamp and no load since, for which R16's order of stamping
and R17's order of offering differ (notes/assumptions/27.md). -/
def Item.entersBefore (epoch : Byte) (a b : Item) : Bool :=
  decide (b.stamp.loadsSince epoch < a.stamp.loadsSince epoch) ||
    (decide (b.stamp.loadsSince epoch = a.stamp.loadsSince epoch) && decide (a.line < b.line))

/-- The intake with an item entered: at the tail, but before the items offered in the same microsecond that it comes
before (R16, R84). -/
def enterIntake (epoch : Byte) (item : Item) (intake : List Item) : List Item :=
  let later := fun other : Item => other.offeredAt == item.offeredAt && item.entersBefore epoch other
  let kept := (intake.reverse.dropWhile later).reverse
  kept ++ item :: intake.drop kept.length

/-- A LINE_START MARK is attached to the newest item of its line in the intake, else to the one the Tag Table works on,
else it is offered at once (R62, R129). -/
def State.placeStartMark (line : LineNo) (stamp : Stamp) (s : State) : State :=
  let attach := fun item : Item => { item with marks := item.marks ++ [stamp] }
  match (s.intake.reverse.findIdx? fun item => item.line == line), s.busy with
  | some fromEnd, _ => { s with intake := s.intake.modify (s.intake.length - 1 - fromEnd) attach }
  | none, some busy =>
    if busy.item.line = line then { s with busy := some { busy with item := attach busy.item } }
    else s.offerStartMarks line [stamp]
  | none, none => s.offerStartMarks line [stamp]

/-- LINE_START MARKs of starts of a line are placed, in the order of the starts (R62). -/
def State.placeStartMarks (line : LineNo) (stamps : List Stamp) (s : State) : State :=
  stamps.foldl (fun s stamp => s.placeStartMark line stamp) s

/-- An item is offered to the intake. Where 16 are held, the last in the order of R16 is refused and counted as an
overrun of its line (R17). LINE_START MARKs attached to an item refused in this way are placed anew, as if it had never
entered (DESIGN CHOICE; notes/assumptions/27.md). -/
def State.offerItem (item : Item) (s : State) : State :=
  let entered := enterIntake s.time.epoch item s.intake
  let s1 := { s with intake := entered.take Config.intakeItems }
  match entered.drop Config.intakeItems with
  | [] => s1
  | refused :: _ =>
    let s2 := s1.countLine refused.line fun c => { c with intakeOverruns := c.intakeOverruns + 1 }
    s2.placeStartMarks refused.line refused.marks

/-! ### Tag Table entries -/

/-- The entry of a key. -/
def State.entryOf (s : State) (key : Key) : Option Entry := s.tags.find? fun e => e.key == key

/-- The state with the entry of one key replaced. -/
def State.withEntry (entry : Entry) (s : State) : State :=
  { s with tags := s.tags.map fun e => if e.key = entry.key then entry else e }

/-- R46, R48: the entry goes STALE and its STALE notice is queued. The stale-since time is the expiry time, the stamp
is that of the happening (notes/assumptions/11.md). An entry without an expiry time is left as it is. -/
def State.expire (entry : Entry) (s : State) : State :=
  let stale := fun (leftFresh : Bool) (expiry : Nat) =>
    (s.withEntry { entry with freshness := .stale expiry }).queueNotice
      { body := .stale leftFresh (optionalNumber entry.settings.deadline)
        line := match entry.key.line with
          | .port n => some n.castSucc
          | .any => none
        tag := entry.key.tag, stamp := s.now }
  match entry.freshness with
  | .unseen expiry => stale false expiry
  | .fresh expiry => stale true expiry
  | .none | .idle | .stale _ => s

/-- R43, R22: an exact entry at the start of its line. -/
def Entry.atStart (monitored : Bool) (t0 : Nat) (e : Entry) : Entry :=
  { e with
    firstDue := true
    freshness :=
      match monitored, e.freshness, e.settings.deadline with
      | true, .idle, some deadline => .unseen (t0 + deadline * 1000)
      | _, f, _ => f }

/-- R44: an exact entry when its RECEIVE line leaves RUNNING. -/
def Entry.atStop (e : Entry) : Entry :=
  { e with
    freshness :=
      match e.freshness with
      | .unseen _ | .fresh _ | .stale _ => .idle
      | f => f }

/-- The state with every exact entry of a line changed. -/
def State.mapEntriesOf (line : LineNo) (f : Entry → Entry) (s : State) : State :=
  { s with tags := s.tags.map fun e => if e.key.line = .port line then f e else e }

/-- R46: the expiries of a line that waited since before a moment are taken first (DEDUCED). DESIGN CHOICE, points that
R46 and R47 leave open: several that waited are taken in listing order; and one whose time equals the moment of the stop,
or is reached after it while the same work of the Tag Table still goes on, gives way to the stop, without a STALE notice
(notes/assumptions/9.md). -/
def State.expireBefore (line : LineNo) (moment : Nat) (s : State) : State :=
  s.tags.foldl
    (fun s e =>
      match e.freshness.expiry with
      | some t => if e.key.line = .port line ∧ t < moment then s.expire e else s
      | none => s)
    s

/-- A line start or stop reaches the line's exact entries (R22, R43, R44). -/
def State.applyLineChange (s : State) : LineChange → State
  | .started line monitored t0 => s.mapEntriesOf line (Entry.atStart monitored t0)
  | .stopped line moment => (s.expireBefore line moment).mapEntriesOf line Entry.atStop

/-- A line start or stop reaches the entries at once, or after the work of the item the Tag Table is busy with (R43,
R44). -/
def State.lineChanged (change : LineChange) (s : State) : State :=
  if s.busy.isSome then { s with lineChanges := s.lineChanges ++ [change] } else s.applyLineChange change

/-! ### What a line uses while it runs (R5) -/

/-- R5, R6, R13, R115: the driver and the receiver become active as role and state give. -/
def Port.activate (p : Port) : Port :=
  { p with
    receiver := if p.receiverActive then .idle p.pair.isSome else p.receiver
    transmitter := if p.driverActive then .free else p.transmitter
    comparator := if p.receiverActive && p.config.role == .echo then .clear else p.comparator }

/-- R5, R6, R14, R115: the driver is released and the receiver made DORMANT; a word in the receiver is cut and counted.
A word abandoned on the wire leaves the pair null (notes/assumptions/7.md). -/
def Port.release (p : Port) : Port :=
  { p with
    counters :=
      if p.receiver.midWord then { p.counters with cutWords := p.counters.cutWords + 1 } else p.counters
    receiver := .dormant
    transmitter := .dormant
    comparator := .inactive
    pair :=
      match p.transmitter with
      | .sending _ _ => none
      | _ => p.pair }

/-- R97: the slots of a line stop being able to come due, and their pending instances are cleared. -/
def State.stopSlots (line : LineNo) (s : State) : State :=
  { s with plan := s.plan.map fun slot =>
      if slot.line = line then { slot with nextDue := none, pending := none } else slot }

/-- R96, R114: every enabled slot of a line that starts joins the grid of its T0. -/
def State.startSlots (line : LineNo) (s : State) : State :=
  { s with plan := s.plan.map fun slot =>
      if slot.line = line then { slot with nextDue := s.joinGrid slot.line slot.settings } else slot }

/-! ### The request executor (R145, R146, R148) -/

/-- R145: the reply cache with a reply entered, the oldest removed where 4 were held. -/
def cacheReply (reply : Reply) (cache : List Reply) : List Reply :=
  (cache ++ [reply]).drop (cache.length + 1 - Config.cachedReplies)

/-- The executor produces a reply: it enters the reply list and the cache, and the executor is free (R145, R148). -/
def State.answered (r : Request) (status : Status) (results : List Byte) (s : State) : State :=
  let reply : Reply := { seq := r.seq, payload := replyPayload r.payload status results }
  { s with link := { s.link with
      executing := none
      replies := s.link.replies ++ [reply]
      cache := cacheReply reply s.link.cache } }

/-- R153: RESET(FULL) is answered at once and stays in execution until its reply frame has been sent. -/
def State.answeredAndHeld (r : Request) (s : State) : State :=
  let s1 := s.answered r .ok []
  { s1 with link := { s1.link with
      executing := some ⟨r, .resetReply⟩
      replies := s.link.replies ++
        [{ seq := r.seq, payload := replyPayload r.payload .ok [], endsReset := true }] } }

/-- What comes of a request whose fields are judged: a refusal, which changes nothing (R149); an OK reply with results
after an effect; a stop that holds the executor (R134); RESET(FULL) (R153). -/
inductive Answer where
  | refuse (status : Status)
  | ok (s : State) (results : List Byte)
  | holdForStop (s : State) (line : LineNo)
  | holdForReset (s : State)

/-- The request that a row of the executor acts on: the one in execution where it waits for the Tag Table (R33), else
the head of the request queue where the executor may take it (R148). -/
def State.requestFor (command : Instr) (s : State) : Option Request :=
  match s.link.executing with
  | some e =>
    if e.hold = .atTagTable ∧ requestCommand e.request.payload = command then some e.request else none
  | none =>
    if s.mayTakeRequest then s.link.requests.head?.filter fun r => requestCommand r.payload == command else none

/-- The request moves from the queue into execution (R148); one that waited there stays. -/
def State.startExecuting (r : Request) (s : State) : State :=
  { s with link := { s.link with
      requests := if s.link.executing.isNone then s.link.requests.tail else s.link.requests
      executing := some ⟨r, .atTagTable⟩ } }

/-- A request whose kind and length are right is answered (R148, R149). -/
def State.conclude (r : Request) (s : State) : Answer → State
  | .refuse status => s.answered r status []
  | .ok s1 results => s1.answered r .ok results
  | .holdForStop s1 line => { s1 with link := { s1.link with executing := some ⟨r, .stop line⟩ } }
  | .holdForReset s1 => s1.answeredAndHeld r

/-- The executor takes a request of a row and carries it out: a wrong length is refused with FORMAT before any field
(R149, R172), a Tag Table request waits for the Tag Table (R33), and the row's own rule answers. Without such a
request nothing happens. -/
def State.carryOut (command : Instr) (rule : List Byte → State → Answer) (s : State) : State :=
  match s.requestFor command with
  | none => s
  | some r =>
    let s1 := s.startExecuting r
    if r.payload.length ≠ requestLength command then s1.answered r .format []
    else if isTagRequest command && !s1.tagTableFree then s1
    else s1.conclude r (rule r.payload.tail s1)

/-! ### Stops and faults -/

/-- R133, R122: the stop of a line has ended in a final state, and its held reply is produced. -/
def State.stopEnded (n : LineNo) (final : LineState) (s : State) : State :=
  let discarded := ((s.port n).stop.map StopInProgress.discarded).getD 0
  let s1 := s.mapPort n fun p => { p with state := final, stop := none }
  match s.link.executing with
  | some e =>
    if e.hold = .stop n then s1.answered e.request .ok [lineStateByte final, BitVec.ofNat 8 discarded] else s1
  | none => s1

/-- R133: the stop of a line ends where its condition holds: the line becomes READY and its driver and receiver are
released. -/
def State.tryEndStop (n : LineNo) (s : State) : State :=
  if (s.port n).stopCanEnd then (s.mapPort n Port.release).stopEnded n .ready else s

/-- R121: entry to FAULT, with the LINE_FAULT notice and, from STOPPING, the end of the stop (R122). -/
def State.enterFault (n : LineNo) (judgement : Judgement) (tag : Tag) (stamp : Stamp) (s : State) : State :=
  let stopping := (s.port n).state == .stopping
  let notice : Notice :=
    { body := .lineFault stopping judgement (s.port n).consecutive, line := some (lineQueue n), tag, stamp }
  (((s.mapPort n Port.release).stopSlots n).queueNotice notice).stopEnded n .fault

/-! ### Judging a read-back (R117 to R121) -/

/-- R117: an outcome compared with the word sent. -/
def judge (word : LineBits) (outcome : ReceiverOutcome) : Judgement :=
  match outcome.kind with
  | .error kind _ => .error kind
  | .word => if outcome.bits = word then .matched else .different

/-- The effect of a judgement with its stamp: MATCH clears the consecutive count and may offer an echo capture (R119);
anything else is a mismatch (R120), and at the threshold a fault (R121). -/
def State.judged (n : LineNo) (word : LineBits) (judgement : Judgement) (stamp : Stamp) (s : State) : State :=
  let p := s.port n
  match judgement with
  | .matched =>
    let s1 := s.withPort n { p with comparator := .clear, consecutive := 0 }
    if p.config.keepEcho then
      s1.offerItem { kind := .echo, line := n, bits := word, stamp, offeredAt := s.time.runClock }
    else s1
  | judgement =>
    let count := p.consecutive + 1
    let s1 := s.withPort n { p with
      comparator := .clear
      consecutive := count
      counters := { p.counters with echoMismatches := p.counters.echoMismatches + 1 } }
    let s2 := s1.queueNotice
      { body := .echoMismatch judgement count, line := some (lineQueue n), tag := lineTag word, stamp }
    if p.config.echoThreshold ≤ count then s2.enterFault n judgement (lineTag word) stamp else s2

/-! ### Acknowledged and returned records (R69, R70) -/

/-- R69, R74: the records of an acknowledged data report leave the front of their queue; the full notice re-arms at
half the depth. -/
def CaptureQueue.release (count : Nat) (q : CaptureQueue) : CaptureQueue :=
  let gone := min count q.inFlight
  let records := q.records.drop gone
  { q with
    records
    inFlight := q.inFlight - gone
    acknowledged := q.acknowledged + BitVec.ofNat 32 (q.records.length - records.length)
    armed := q.armed || (decide (0 < count) && decide (records.length ≤ q.depth / 2)) }

/-- R70, R72: the records of a discarded data report return to waiting and its loss is added back. -/
def CaptureQueue.takeBack (loss : Nat) (q : CaptureQueue) : CaptureQueue :=
  { q with inFlight := 0, pendingLoss := saturate Config.max32 q.pendingLoss loss }

end Sys2Proof.Machine
end

