-- ==== Sys2Proof/Machine/Lines.lean ====
section
/-! DEFINITION. Line control (Chapters 7 and 8): CONFIGURE_LINE, START_LINE, STOP_LINE, READ_LINE, CLEAR_FAULT. -/

namespace Sys2Proof.Machine

/-- R126, R127: a line with its configuration replaced. A role of RECEIVE or OFF empties the send queue. -/
def Port.configure (config : LineConfig) (p : Port) : Port :=
  { p with
    config
    state := if config.role = .off then .off else .ready
    sendQueue := if config.role = .receive ∨ config.role = .off then [] else p.sendQueue }

/-- R126: CONFIGURE_LINE. -/
def ruleConfigureLine (fields : List Byte) (s : State) : Answer :=
  match lineOf (byteAt fields 0), lineConfigOf fields 1 with
  | some n, some config =>
    let p := s.port n
    if p.state ≠ .off ∧ p.state ≠ .ready then .refuse .state
    else
      let p1 := p.configure config
      .ok (s.withPort n p1)
        [lineStateByte p1.state, BitVec.ofNat 8 (p.sendQueue.length - p1.sendQueue.length)]
  | _, _ => .refuse .range

/-- CONFIGURE_LINE (R126). -/
def execConfigureLine (s : State) : Host.Outcome State Fault Refusal :=
  s.happen (State.carryOut .configureLine ruleConfigureLine)

/-- R128 to R130: a READY line starts. Its port becomes active and T0 is set; its exact entries are told (R22, R43); a
transmitting line's slots join the grid (R96); a RECEIVE line's queue gets a LINE_START MARK (R129). -/
def State.startLine (n : LineNo) (s : State) : State :=
  let receive := (s.port n).config.role == .receive
  let s1 := s.mapPort n fun p => { p with state := .running, t0 := some s.time.runClock }.activate
  let s2 := if receive then s1 else s1.startSlots n
  let s3 := s2.lineChanged (.started n receive s.time.runClock)
  if receive then s3.placeStartMark n s.now else s3

/-- R128: START_LINE. -/
def ruleStartLine (fields : List Byte) (s : State) : Answer :=
  match lineOf (byteAt fields 0) with
  | none => .refuse .range
  | some n =>
    if (s.port n).state ≠ .ready then .refuse .state
    else
      .ok (s.startLine n)
        (bigEndian 8 s.time.runClock ++ bigEndian 8 s.time.lineTime ++ [s.time.epoch])

/-- START_LINE (R128). -/
def execStartLine (s : State) : Host.Outcome State Fault Refusal :=
  s.happen (State.carryOut .startLine ruleStartLine)

/-- R131: a RECEIVE line stops at once. -/
def State.stopReceiving (n : LineNo) (s : State) : State :=
  (s.mapPort n fun p => { p.release with state := .ready }).lineChanged (.stopped n s.time.runClock)

/-- R132: a transmitting line enters STOPPING: its slots no longer come due, and under DISCARD its send queue is
emptied. -/
def State.beginStop (n : LineNo) (mode : StopMode) (s : State) : State :=
  let discarded := if mode = .discard then (s.port n).sendQueue.length else 0
  (s.mapPort n fun p =>
    { p with
      state := .stopping
      sendQueue := if mode = .discard then [] else p.sendQueue
      stop := some { mode, discarded } }).stopSlots n

/-- R131 to R133: STOP_LINE. A stop taken while the transmitter is FREE with nothing to drain ends in the happening of
the request; otherwise it holds the executor. A line found STOPPING, which no run shows (R134), is refused with STATE
(notes/assumptions/14.md). Where RANGE and STATE both apply it is refused with RANGE (DESIGN CHOICE;
notes/assumptions/29.md). -/
def ruleStopLine (fields : List Byte) (s : State) : Answer :=
  match lineOf (byteAt fields 0), stopModeOf (byteAt fields 1) with
  | some n, some mode =>
    let p := s.port n
    match p.state with
    | .fault | .stopping => .refuse .state
    | .off | .ready => .ok s [lineStateByte p.state, 0]
    | .running =>
      if p.config.role = .receive then .ok (s.stopReceiving n) [lineStateByte .ready, 0]
      else
        let s1 := s.beginStop n mode
        let p1 := s1.port n
        if p1.stopCanEnd then
          .ok (s1.withPort n { p1.release with state := .ready, stop := none })
            [lineStateByte .ready, BitVec.ofNat 8 (p.sendQueue.length - p1.sendQueue.length)]
        else .holdForStop s1 n
  | _, _ => .refuse .range

/-- STOP_LINE (R131). -/
def execStopLine (s : State) : Host.Outcome State Fault Refusal := s.happen (State.carryOut .stopLine ruleStopLine)

/-- R135: a line as READ_LINE returns it (Table 11-4). -/
def lineResults (p : Port) : List Byte :=
  [lineStateByte p.state] ++ lineConfigBytes p.config ++ presentField 8 p.t0 ++
    [BitVec.ofNat 8 p.sendQueue.length, BitVec.ofNat 8 p.consecutive] ++ lineCounterBytes p.counters

/-- R135: READ_LINE, with its clear option. -/
def ruleReadLine (fields : List Byte) (s : State) : Answer :=
  match lineOf (byteAt fields 0), yesNoOf (byteAt fields 1) with
  | some n, some clear =>
    .ok (if clear then s.mapPort n fun p => { p with counters := {} } else s) (lineResults (s.port n))
  | _, _ => .refuse .range

/-- READ_LINE (R135). -/
def execReadLine (s : State) : Host.Outcome State Fault Refusal := s.happen (State.carryOut .readLine ruleReadLine)

/-- R123: CLEAR_FAULT. -/
def ruleClearFault (fields : List Byte) (s : State) : Answer :=
  match lineOf (byteAt fields 0) with
  | none => .refuse .range
  | some n =>
    if (s.port n).state ≠ .fault then .refuse .state
    else .ok (s.mapPort n fun p => { p with state := .ready, consecutive := 0 }) []

/-- CLEAR_FAULT (R123). -/
def execClearFault (s : State) : Host.Outcome State Fault Refusal :=
  s.happen (State.carryOut .clearFault ruleClearFault)

end Sys2Proof.Machine
end

