-- ==== Sys2Proof/Machine/Power.lean ====
section
/-! DEFINITION. Power-on and the resets: POWER_ON, RSTN_LOW, RESET_TRAFFIC, RESET_FULL, RESET_FULL_TAKES_EFFECT. -/

namespace Sys2Proof.Machine

/-- POWER_ON (R137, R80, R138): RSTn is released, LRATE is sampled, every block takes its power-on values. -/
def execPowerOn (lrate : BitVec 2) (s : State) : Host.Outcome State Fault Refusal :=
  .next { State.reset with link := { rate := rateOfPins lrate }, pending := s.pending }

/-- RSTN_LOW (R137, R80, R134, R147): every block is held at its power-on values, the run clock at 0; a frame on HTXD
is cut and the request in execution discarded. The rate stays until LRATE is sampled again. -/
def execRstnLow (s : State) : Host.Outcome State Fault Refusal :=
  .next { State.reset with held := true, link := { rate := s.link.rate }, pending := s.pending }

/-- R136: a line at RESET(TRAFFIC). -/
def Port.afterTrafficReset (p : Port) : Port :=
  { p.release with
    state := if p.state = .off then .off else .ready
    counters := {}
    consecutive := 0
    sendQueue := []
    stop := none }

/-- R23: an entry at RESET(TRAFFIC). -/
def Entry.afterTrafficReset (e : Entry) : Entry :=
  { key := e.key, settings := e.settings, freshness := if e.settings.deadline.isSome then .idle else .none }

/-- R78: a capture queue at RESET(TRAFFIC). -/
def CaptureQueue.afterTrafficReset (q : CaptureQueue) : CaptureQueue :=
  { depth := q.depth, policy := q.policy }

/-- R114: a slot at RESET(TRAFFIC). -/
def Slot.afterTrafficReset (slot : Slot) : Slot :=
  { slot with
    pending := none, nextDue := none, remaining := slot.settings.limit, sent := 0, misses := 0, skips := 0 }

/-- R170: the report unit at RESET(TRAFFIC). -/
def ReportUnit.afterTrafficReset (r : ReportUnit) : ReportUnit :=
  { r with
    notices := []
    noticeLoss := 0
    streams := r.streams.map fun t => { t with flushPending := false, holdStart := none }
    window := []
    nextSeq := 0
    lastServed := 12
    state := if r.state = .stalled then .active else r.state
    timer := none
    retries := 0 }

/-- R152: the traffic state of the whole part is cleared in one happening; the time base and the host link are kept. -/
def State.trafficReset (s : State) : State :=
  { s with
    ports := s.ports.map Port.afterTrafficReset
    intake := []
    busy := none
    lineChanges := []
    tags := s.tags.map Entry.afterTrafficReset
    queues := s.queues.map CaptureQueue.afterTrafficReset
    plan := s.plan.map Slot.afterTrafficReset
    reports := s.reports.afterTrafficReset }

/-- The rule of RESET in the scope TRAFFIC; another scope is refused with RANGE (R152). -/
def ruleResetTraffic (fields : List Byte) (s : State) : Answer :=
  if byteAt fields 0 = 1 then .ok s.trafficReset [] else .refuse .range

/-- RESET_TRAFFIC (R152). -/
def execResetTraffic (s : State) : Host.Outcome State Fault Refusal :=
  s.happen (State.carryOut .resetTraffic ruleResetTraffic)

/-- RESET_FULL (R153): answered OK at once, and held until its reply frame has been sent. -/
def execResetFull (s : State) : Host.Outcome State Fault Refusal :=
  s.happen (State.carryOut .resetFull fun _ s => .holdForReset s)

/-- R153: RESET(FULL) takes effect once its reply frame has been completely sent, whether or not the command that says
so (LINK_FRAME_COMPLETE) has been taken (notes/assumptions/18.md). -/
def State.resetTakesEffectNow (s : State) : Bool :=
  s.resetDue ||
    (s.link.executing.map Executing.hold == some .resetReply &&
      match s.link.transmitter with
      | some f => f.endsReset && s.frameSent f
      | none => false)

/-- R153, R137: every block at its power-on values, but for the reset cause, the link rate, and what the pins of the
line pairs show. -/
def State.fullReset (s : State) : State :=
  { State.reset with
    resetCause := .request
    ports := s.ports.map fun p => { pair := p.release.pair }
    link := { rate := s.link.rate }
    pending := s.pending }

/-- RESET_FULL_TAKES_EFFECT (R153). -/
def execResetFullTakesEffect (s : State) : Host.Outcome State Fault Refusal :=
  s.happen fun s => if s.resetTakesEffectNow then s.fullReset else s

end Sys2Proof.Machine
end

