-- ==== Sys2Proof/Machine/Reports.lean ====
section
/-! DEFINITION. The report unit (Chapter 10): acknowledgement, REPORT_FORMATION, HOLD_RUN_OUT, RETRANSMIT_TIMEOUT,
START_REPORTS, STOP_REPORTS, RESYNC, SUBSCRIBE, UNSUBSCRIBE, FLUSH. -/

namespace Sys2Proof.Machine

/-! ### Formation (R161, R162) -/

/-- R160, R163: a report enters the window under the next sequence number, due to be sent. -/
def State.pushReport (body : ReportBody) (s : State) : State :=
  { s with reports := { s.reports with
      window := s.reports.window ++ [{ seq := s.reports.nextSeq, body, due := true }]
      nextSeq := s.reports.nextSeq + 1 } }

/-- R161: a notice report takes up to 12 notices and the notice pending loss. -/
def State.formNotices (s : State) : State :=
  let s1 := s.pushReport (.notices (s.reports.notices.take Config.perReport) s.reports.noticeLoss)
  { s1 with reports := { s1.reports with
      notices := s.reports.notices.drop Config.perReport, noticeLoss := 0 } }

/-- R162, R156: a data report of a stream marks up to its batch of waiting records in flight and takes the pending
loss; the hold period begins again where news is left. -/
def State.formData (n : QueueNo) (s : State) : State :=
  let q := s.queue n
  let count := min (s.stream n).batch q.waiting
  let q1 := { q with inFlight := q.inFlight + count, pendingLoss := 0 }
  let s1 := s.withQueue n q1
  let s2 := s1.withStream n { s1.stream n with
    flushPending := false
    holdStart := if q1.hasNews then some s.time.runClock else none }
  let s3 := s2.pushReport (.data n count q.pendingLoss)
  { s3 with reports := { s3.reports with lastServed := n } }

/-- R161: one report is formed, of notices before streams. -/
def State.form (s : State) : State :=
  if s.noticesToForm then s.formNotices
  else match s.nextStream with
    | some n => s.formData n
    | none => s

/-- REPORT_FORMATION (R161). -/
def execReportFormation (s : State) : Host.Outcome State Fault Refusal :=
  s.happen fun s => if s.mayForm then s.form else s

/-- HOLD_RUN_OUT (R156): a stream's hold has run out from this moment on. That it has is read from the run clock and
the hold start where a formation judges readiness (R157), so the command itself changes nothing
(notes/assumptions/21.md). -/
def execHoldRunOut (_stream : QueueNo) (s : State) : Host.Outcome State Fault Refusal := .next s

/-! ### Acknowledgement (R164) -/

/-- A report leaves its slot: a data report's records leave their queue (R69), a notice report's notices are given
up. -/
def State.releaseReport (s : State) (report : Report) : State :=
  match report.body with
  | .notices _ _ => s
  | .data n count _ => s.withQueue n ((s.queue n).release count)

/-- R165: the retransmission timer when it is restarted or stopped. -/
def ReportUnit.restartedTimer (r : ReportUnit) (now : Nat) (left : List Report) : Option Nat :=
  if r.state = .silent ∨ left = [] then none else some (now + r.timeout * 1000)

/-- R164: an ACK acknowledges the report its SEQ names and every older one, or is counted as a stray. -/
def State.acknowledge (seq : Byte) (s : State) : State :=
  match s.reports.window.findIdx? fun report => report.seq == seq with
  | none => { s with reports := { s.reports with strays := s.reports.strays + 1 } }
  | some k =>
    let left := s.reports.window.drop (k + 1)
    let s1 := (s.reports.window.take (k + 1)).foldl State.releaseReport s
    { s1 with reports := { s1.reports with
        window := left
        retries := 0
        timer := s.reports.restartedTimer s.time.runClock left
        state := if s.reports.state = .stalled then .active else s.reports.state } }

/-! ### Retransmission (R166, R167) -/

/-- The window with every report due, or none. -/
def markAll (due : Bool) (window : List Report) : List Report := window.map fun report => { report with due }

/-- R166: a resend round begins, or at the retry limit reporting stalls. -/
def ReportUnit.timeOut (r : ReportUnit) : ReportUnit :=
  if r.retries < r.retryLimit then
    { r with window := markAll true r.window, retries := r.retries + 1, timer := none }
  else { r with window := markAll false r.window, state := .stalled, timer := none }

/-- RETRANSMIT_TIMEOUT (R166). -/
def execRetransmitTimeout (s : State) : Host.Outcome State Fault Refusal :=
  s.happen fun s => if s.retransmitDue then { s with reports := s.reports.timeOut } else s

/-! ### Requests -/

/-- R168: START_REPORTS. Where RANGE and STATE both apply it is refused with RANGE (DESIGN CHOICE;
notes/assumptions/29.md). -/
def ruleStartReports (fields : List Byte) (s : State) : Answer :=
  let timeout := orDefault16 200 (numberAt fields 0 2)
  let limit := (orDefault 3 (fun b => some b.toNat) (byteAt fields 2)).getD 3
  if timeout < 10 ∨ timeout > 2000 ∨ limit < 1 ∨ limit > 8 then .refuse .range
  else if s.reports.state ≠ .silent then .refuse .state
  else
    .ok { s with reports := { s.reports with
        timeout, retryLimit := limit, state := .active, retries := 0, window := markAll true s.reports.window } }
      (bigEndian 1 s.reports.window.length)

/-- START_REPORTS (R168). -/
def execStartReports (s : State) : Host.Outcome State Fault Refusal :=
  s.happen (State.carryOut .startReports ruleStartReports)

/-- R168: STOP_REPORTS. -/
def ruleStopReports (_fields : List Byte) (s : State) : Answer :=
  .ok { s with reports := { s.reports with
      state := .silent, timer := none, window := markAll false s.reports.window } } []

/-- STOP_REPORTS (R168). -/
def execStopReports (s : State) : Host.Outcome State Fault Refusal :=
  s.happen (State.carryOut .stopReports ruleStopReports)

/-- R169, R70, R72: what a discarded report gives back to its queue. -/
def State.takeBackReport (s : State) (report : Report) : State :=
  match report.body with
  | .notices _ _ => s
  | .data n _ loss => s.withQueue n ((s.queue n).takeBack loss)

/-- The notices and the notice losses of reports, oldest first (R169). -/
def windowNotices (window : List Report) : List Notice :=
  (window.map fun report =>
    match report.body with
    | .notices list _ => list
    | .data _ _ _ => []).flatten

def windowNoticeLoss (window : List Report) : Nat :=
  (window.map fun report =>
    match report.body with
    | .notices _ loss => loss
    | .data _ _ _ => 0).sum

/-- R169: every unacknowledged report is discarded, its contents given back, and the numbering begins again at 0. The
notice queue keeps the first 64 of the returned notices and its own. -/
def State.discardWindow (s : State) : State :=
  let s1 := s.reports.window.foldl State.takeBackReport s
  let notices := windowNotices s.reports.window ++ s.reports.notices
  let loss := saturate Config.max16 s.reports.noticeLoss
    (windowNoticeLoss s.reports.window + (notices.length - Config.noticeQueue))
  { s1 with reports := { s1.reports with
      notices := notices.take Config.noticeQueue
      noticeLoss := loss
      window := []
      nextSeq := 0
      retries := 0
      timer := none
      state := if s.reports.state = .stalled then .active else s.reports.state } }

/-- RESYNC (R169): answered with the number of reports discarded. -/
def execResync (s : State) : Host.Outcome State Fault Refusal :=
  s.happen (State.carryOut .resync fun _ s => .ok s.discardWindow (bigEndian 1 s.reports.window.length))

/-- R158: SUBSCRIBE. -/
def ruleSubscribe (fields : List Byte) (s : State) : Answer :=
  let batch := (orDefault 12 (fun b => some b.toNat) (byteAt fields 1)).getD 12
  let hold := orDefault16 50 (numberAt fields 2 2)
  match queueOf (byteAt fields 0) with
  | none => .refuse .range
  | some n =>
    if batch < 1 ∨ batch > 12 ∨ hold > 1000 then .refuse .range
    else .ok (s.withStream n { s.stream n with subscribed := true, batch, hold }) []

/-- SUBSCRIBE (R158). -/
def execSubscribe (s : State) : Host.Outcome State Fault Refusal := s.happen (State.carryOut .subscribe ruleSubscribe)

/-- R158: UNSUBSCRIBE. -/
def ruleUnsubscribe (fields : List Byte) (s : State) : Answer :=
  match queueOf (byteAt fields 0) with
  | none => .refuse .range
  | some n => .ok (s.withStream n { s.stream n with subscribed := false, flushPending := false }) []

/-- UNSUBSCRIBE (R158). -/
def execUnsubscribe (s : State) : Host.Outcome State Fault Refusal :=
  s.happen (State.carryOut .unsubscribe ruleUnsubscribe)

/-- R159: a stream that a FLUSH marks: subscribed, with news. -/
def State.flushable (s : State) (n : QueueNo) : Bool := (s.stream n).subscribed && (s.queue n).hasNews

/-- R159: the named streams that can be marked take flush pending yes. -/
def State.flushStreams (named : List QueueNo) (s : State) : State :=
  (named.filter s.flushable).foldl (fun s n => s.withStream n { s.stream n with flushPending := true }) s

/-- R159: FLUSH of one stream or of ALL (255). -/
def ruleFlush (fields : List Byte) (s : State) : Answer :=
  let flushed := fun named : List QueueNo =>
    Answer.ok (s.flushStreams named) (bigEndian 1 (named.countP s.flushable))
  if (byteAt fields 0).toNat = 255 then flushed (List.finRange 13)
  else match queueOf (byteAt fields 0) with
    | none => .refuse .range
    | some n => if (s.stream n).subscribed = false then .refuse .state else flushed [n]

/-- FLUSH (R159). -/
def execFlush (s : State) : Host.Outcome State Fault Refusal := s.happen (State.carryOut .flush ruleFlush)

end Sys2Proof.Machine
end

