-- ==== Sys2Proof/Machine/Link.lean ====
section
/-! DEFINITION. The host link (Chapter 9): BYTE_RECEIVED, START_BIT, INTER_BYTE_TIMEOUT, UNKNOWN_REQUEST, IDENTIFY,
GET_STATUS, LINK_FRAME_START, LINK_FRAME_COMPLETE. -/

namespace Sys2Proof.Machine

/-! ### From bytes to requests (R140 to R144) -/

/-- The state with the link counters changed (R154). -/
def State.countLink (f : LinkCounters → LinkCounters) (s : State) : State :=
  { s with link := { s.link with counters := f s.link.counters } }

/-- The state with the frame receiver replaced. -/
def State.withReceiver (r : FrameReceiver) (s : State) : State := { s with link := { s.link with receiver := r } }

/-- R143, R144: a reply that is not the executor's enters the reply list while it holds fewer than 7, and is dropped
and counted otherwise. -/
def State.listOrDrop (reply : Reply) (s : State) : State :=
  if s.link.replies.length < Config.listedReplies - 1 then
    { s with link := { s.link with replies := s.link.replies ++ [reply] } }
  else s.countLink fun c => { c with busyDropped := c.busyDropped + 1 }

/-- R143: a SEQ belongs to the request in execution or to a waiting request. -/
def State.seqPending (s : State) (seq : Byte) : Bool :=
  (s.link.executing.map fun e => e.request.seq) == some seq || s.link.requests.any fun r => r.seq == seq

/-- R143, R144: a REQUEST frame is answered from the cache, discarded as a repeat, queued, or refused with BUSY. -/
def State.requestFrame (r : Request) (s : State) : State :=
  match s.link.cache.find? fun reply => reply.seq == r.seq with
  | some reply =>
    (s.countLink fun c => { c with duplicates := c.duplicates + 1 }).listOrDrop { reply with endsReset := false }
  | none =>
    if s.seqPending r.seq then s.countLink fun c => { c with duplicates := c.duplicates + 1 }
    else if s.link.requests.length < Config.waitingRequests then
      { s with link := { s.link with requests := s.link.requests ++ [r] } }
    else
      (s.countLink fun c => { c with busyRefusals := c.busyRefusals + 1 }).listOrDrop
        { seq := r.seq, payload := replyPayload r.payload .busy [] }

/-- R140, R141, R142: a frame is taken: checked by its CRC and handed on by its KIND. `bytes` runs from LENGTH to the
second CRC byte. -/
def State.takeFrame (bytes : List Byte) (s : State) : State :=
  let covered := bytes.take (bytes.length - 2)
  let kind := byteAt bytes 1
  let seq := byteAt bytes 2
  if fromBytes (bytes.drop (bytes.length - 2)) ≠ (frameCrc covered).toNat then
    s.countLink fun c => { c with crcErrors := c.crcErrors + 1 }
  else if kind = kindRequest then s.requestFrame { seq, payload := covered.drop 3 }
  else if kind = kindAck then s.acknowledge seq
  else s.countLink fun c => { c with kindErrors := c.kindErrors + 1 }

/-- R140, R141: a byte with a good stop bit goes through HUNT, HEADER or BODY. -/
def State.takeByte (byte : Byte) (s : State) : State :=
  let now := s.time.runClock
  match s.link.receiver with
  | .hunt => if byte = syncByte then s.withReceiver (.header [] now false) else s
  | .header bytes _ _ =>
    if bytes = [] ∧ byte.toNat > Config.largestPayload then
      (s.withReceiver .hunt).countLink fun c => { c with lengthErrors := c.lengthErrors + 1 }
    else if bytes.length < 2 then s.withReceiver (.header (bytes ++ [byte]) now false)
    else s.withReceiver (.body (bytes ++ [byte]) now false)
  | .body bytes _ _ =>
    let frame := bytes ++ [byte]
    if frame.length < (byteAt frame 0).toNat + 5 then s.withReceiver (.body frame now false)
    else (s.withReceiver .hunt).takeFrame frame

/-- BYTE_RECEIVED (R140); a byte whose stop bit is low is a byte error, and abandons a frame in progress (R141). -/
def execByteReceived (byte : Byte) (stopHigh : Bool) (s : State) : Host.Outcome State Fault Refusal :=
  s.happen fun s =>
    if stopHigh then s.takeByte byte
    else (s.withReceiver .hunt).countLink fun c => { c with byteErrors := c.byteErrors + 1 }

/-- START_BIT (R141): the next byte of a frame has begun, so its gap no longer runs out. -/
def execStartBit (s : State) : Host.Outcome State Fault Refusal :=
  s.happen fun s =>
    match s.link.receiver with
    | .hunt => s
    | .header bytes lastAt _ => s.withReceiver (.header bytes lastAt true)
    | .body bytes lastAt _ => s.withReceiver (.body bytes lastAt true)

/-- INTER_BYTE_TIMEOUT (R141): the frame in progress is abandoned. -/
def execInterByteTimeout (s : State) : Host.Outcome State Fault Refusal :=
  s.happen fun s =>
    if s.byteGapRunOut then
      (s.withReceiver .hunt).countLink fun c => { c with timeouts := c.timeouts + 1 }
    else s

/-! ### Device requests (R149 to R151) -/

/-- UNKNOWN_REQUEST (R172): an empty payload is refused with FORMAT, an undefined kind with UNKNOWN. -/
def execUnknownRequest (s : State) : Host.Outcome State Fault Refusal :=
  s.happen fun s =>
    match s.requestFor .unknownRequest with
    | none => s
    | some r => (s.startExecuting r).answered r (if r.payload = [] then .format else .unknown) []

/-- R150: part code, revision and the capacities of Table 0-5 (Table 11-4). -/
def identifyResults : List Byte :=
  bigEndian 2 Config.partCode ++ bigEndian 1 Config.revision ++ bigEndian 1 12 ++ bigEndian 1 Config.intakeItems ++
    bigEndian 2 Config.tagEntries ++ bigEndian 2 Config.poolRecords ++ bigEndian 2 Config.mergedRecords ++
    bigEndian 2 Config.planSlots ++ bigEndian 1 Config.sendQueueWords ++ bigEndian 1 Config.noticeQueue ++
    bigEndian 1 Config.windowReports ++ bigEndian 1 Config.perReport ++ bigEndian 1 Config.waitingRequests ++
    bigEndian 1 Config.cachedReplies ++ bigEndian 1 Config.listedReplies ++ bigEndian 1 Config.largestPayload

/-- IDENTIFY (R150). -/
def execIdentify (s : State) : Host.Outcome State Fault Refusal :=
  s.happen (State.carryOut .identify fun _ s => .ok s identifyResults)

/-- R151: the state of the part as GET_STATUS returns it (Table 11-4). -/
def State.statusResults (s : State) : List Byte :=
  [resetCauseByte s.resetCause, reportingByte s.reports.state, BitVec.ofNat 8 s.reports.window.length,
    BitVec.ofNat 8 s.reports.notices.length] ++ bigEndian 2 s.reports.noticeLoss ++
    linkCounterBytes s.link.counters ++ bigEndian 4 s.reports.strays.toNat ++ [yesNoByte s.attn] ++
    ((List.finRange 12).map fun n => lineStateByte (s.port n).state) ++ bigEndian 2 s.freePool

/-- GET_STATUS (R151). -/
def execGetStatus (s : State) : Host.Outcome State Fault Refusal :=
  s.happen (State.carryOut .getStatus fun _ s => .ok s s.statusResults)

/-! ### The link transmitter (R147, R163) -/

/-- The records of a stream that older reports of the window hold in flight (R68). -/
def olderCount (n : QueueNo) (older : List Report) : Nat :=
  (older.map fun report =>
    match report.body with
    | .data m count _ => if m = n then count else 0
    | .notices _ _ => 0).sum

/-- The payload of a report at the moment its frame starts (R163, R174). -/
def State.reportPayload (s : State) (report : Report) : List Byte :=
  match report.body with
  | .notices list loss => noticeReportPayload list loss
  | .data n count loss =>
    let older := s.reports.window.takeWhile fun other => other.seq != report.seq
    dataReportPayload n (((s.queue n).records.drop (olderCount n older)).take count) loss

/-- A frame starts on HTXD (R147). -/
def State.startFrame (kind seq : Byte) (payload : List Byte) (endsReset : Bool) (s : State) : State :=
  { s with link := { s.link with
      transmitter := some { bytes := frameBytes kind seq payload, startedAt := s.time.runClock, endsReset } } }

/-- R163, R165: a report's frame starts: the report is no longer due, and a stopped timer starts. -/
def State.startReportFrame (report : Report) (s : State) : State :=
  let s1 := s.startFrame kindReport report.seq (s.reportPayload report) false
  { s1 with reports := { s1.reports with
      window := s.reports.window.map fun other =>
        if other.seq = report.seq then { other with due := false } else other
      timer := some (s.reports.timer.getD (s.time.runClock + s.reports.timeout * 1000)) } }

/-- R146, R147: the oldest waiting reply leaves the list as its frame starts. -/
def State.startReplyFrame (reply : Reply) (s : State) : State :=
  let s1 := s.startFrame kindReply reply.seq reply.payload reply.endsReset
  { s1 with link := { s1.link with replies := s.link.replies.tail } }

/-- R147: the link transmitter is idle, and RESET(FULL) is not about to take effect (R153: the reply frame of the reset
is the last frame). -/
def State.transmitterIdle (s : State) : Bool := s.link.transmitter.isNone && !s.resetDue

/-- LINK_FRAME_START (R147): the oldest waiting reply, or failing one the offered report. -/
def execLinkFrameStart (s : State) : Host.Outcome State Fault Refusal :=
  s.happen fun s =>
    if s.transmitterIdle then
      match s.link.replies.head?, s.offeredReport with
      | some reply, _ => s.startReplyFrame reply
      | none, some report => s.startReportFrame report
      | none, none => s
    else s

/-- LINK_FRAME_COMPLETE (R147): the link transmitter becomes free; the end of a RESET(FULL) reply lets the reset take
effect (R153). -/
def execLinkFrameComplete (s : State) : Host.Outcome State Fault Refusal :=
  s.happen fun s =>
    match s.link.transmitter with
    | none => s
    | some f =>
      if s.frameSent f then
        { s with link := { s.link with
            transmitter := none
            executing :=
              if f.endsReset then s.link.executing.map fun e => { e with hold := .resetDue }
              else s.link.executing } }
      else s

end Sys2Proof.Machine
end

