-- ==== Sys2Proof/Machine/Transmit.lean ====
section
/-! DEFINITION. The transmitter and the transmit selector (Chapters 1, 6 and 8): END_OF_SENDING, END_OF_SPACING,
TRANSMIT_SELECTION, STOP_END. -/

namespace Sys2Proof.Machine

/-- R13: SENDING has lasted its 40 bit times. -/
def State.sendingEnded (s : State) (line : LineNo) : Bool :=
  match (s.port line).transmitter with
  | .sending _ ends => s.reached ends
  | _ => false

/-- R13, R118: the port when SENDING ends: the word is counted, the gap of 8 bit times begins, and a WAITING comparator
takes its missing time, 4 bit times after the last bit. -/
def Port.endSending (p : Port) : Port :=
  match p.transmitter with
  | .sending word ends =>
    { p with
      transmitter := .spacing word (ends + 8 * bitTime p.config.rate)
      counters := { p.counters with wordsSent := p.counters.wordsSent + 1 }
      comparator :=
        match p.comparator with
        | .waiting sent _ => .waiting sent (some (ends + 4 * bitTime p.config.rate))
        | c => c }
  | _ => p

/-- END_OF_SENDING (R13), with the judgement of an outcome that was held (R116). -/
def execEndOfSending (line : LineNo) (s : State) : Host.Outcome State Fault Refusal :=
  s.happen fun s =>
    if s.sendingEnded line then
      let s1 := s.mapPort line Port.endSending
      match (s.port line).comparator with
      | .held word outcome => s1.judged line word (judge word outcome) outcome.stamp
      | _ => s1
    else s

/-- R13: SPACING has lasted its 8 bit times. -/
def State.spacingEnded (s : State) (line : LineNo) : Bool :=
  match (s.port line).transmitter with
  | .spacing _ ends => s.reached ends
  | _ => false

/-- END_OF_SPACING (R13): the transmitter enters FREE. -/
def execEndOfSpacing (line : LineNo) (s : State) : Host.Outcome State Fault Refusal :=
  s.happen fun s => if s.spacingEnded line then s.mapPort line fun p => { p with transmitter := .free } else s

/-- R104: the earliest pending due time first, then the lowest index. -/
def Slot.servedBefore (a b : Slot) : Bool :=
  decide (a.pending.getD 0 < b.pending.getD 0) ||
    (decide (a.pending.getD 0 = b.pending.getD 0) && decide (a.index < b.index))

/-- R104: the pending slot of a line that is served first. -/
def firstPending (line : LineNo) (plan : List Slot) : Option Slot :=
  (plan.filter fun slot => slot.line == line && slot.pending.isSome).foldl
    (fun best slot =>
      match best with
      | some b => if slot.servedBefore b then some slot else some b
      | none => some slot)
    none

/-- What a selection chooses between: a pending slot or the head of the send queue (R103). -/
inductive Candidate where
  | slot (slot : Slot)
  | queued (word : OneOff)
  deriving DecidableEq, Repr

/-- R103, R104: the candidate the transmit policy chooses, where the line may start a word. -/
def State.selection (s : State) (line : LineNo) : Option Candidate :=
  let p := s.port line
  let slot := (firstPending line s.plan).map Candidate.slot
  let queued := p.sendQueue.head?.map Candidate.queued
  if p.mayStartWord then
    match p.config.policy with
    | .planFirst => slot.or queued
    | .queueFirst => queued.or slot
  else none

/-- R13, R116: a word enters SENDING for 40 bit times, and on an ECHO line the comparator waits for it. -/
def State.startSending (line : LineNo) (tag : Tag) (value : Value) (s : State) : State :=
  s.mapPort line fun p =>
    { p with
      transmitter := .sending (lineWord tag value) (s.time.runClock + 40 * bitTime p.config.rate)
      comparator := if p.config.role = .echo then .waiting (lineWord tag value) none else p.comparator }

/-- R105: a slot when it is selected; at a remaining of 0 it disables itself. -/
def Slot.selected (slot : Slot) : Slot :=
  let remaining := slot.remaining.map fun r => r - 1
  let done := remaining == some 0
  { slot with
    pending := none
    updated := false
    sent := slot.sent + 1
    remaining
    settings := { slot.settings with enabled := slot.settings.enabled && !done }
    nextDue := if done then none else slot.nextDue }

/-- R105: the selected slot has reached its limit. -/
def Slot.limitReached (slot : Slot) : Bool := (slot.remaining.map fun r => r - 1) == some 0

/-- The state with one plan slot replaced. -/
def State.withSlot (slot : Slot) (s : State) : State :=
  { s with plan := s.plan.map fun other => if other.index = slot.index then slot else other }

/-- R105, R106: the chosen word leaves its slot or the send queue and enters SENDING. -/
def State.choose (line : LineNo) (candidate : Candidate) (s : State) : State :=
  match candidate with
  | .slot slot =>
    let s1 := (s.withSlot slot.selected).startSending line slot.settings.tag slot.settings.value
    s1.queueNoticeIf (slot.limitReached && slot.settings.notifyDone)
      { body := .slotDone slot.index, line := some (lineQueue slot.line), tag := slot.settings.tag, stamp := s.now }
  | .queued word =>
    (s.mapPort line fun p => { p with sendQueue := p.sendQueue.tail }).startSending line word.tag word.value

/-- TRANSMIT_SELECTION (R103). -/
def execTransmitSelection (line : LineNo) (s : State) : Host.Outcome State Fault Refusal :=
  s.happen fun s =>
    match s.selection line with
    | some candidate => s.choose line candidate
    | none => s

/-- STOP_END (R133). -/
def execStopEnd (line : LineNo) (s : State) : Host.Outcome State Fault Refusal :=
  s.happen (State.tryEndStop line)

end Sys2Proof.Machine
end

