-- ==== Sys2Proof/Machine/Plan.lean ====
section
/-! DEFINITION. The Transmit Plan and the send queues (Chapter 6): SLOT_DUE, ADD_SLOT, CHANGE_SLOT, SET_VALUE,
REMOVE_SLOT, READ_SLOT, SEND. -/

namespace Sys2Proof.Machine

/-- The slot of an index. -/
def State.slotAt (s : State) (index : SlotNo) : Option Slot := s.plan.find? fun slot => slot.index == index

/-- R98: what a slot becomes when it falls due: skipped, missed, or pending; its next due moves on by one period. -/
def Slot.fallDue (slot : Slot) (due : Nat) : Slot :=
  let next := { slot with nextDue := some (due + slot.settings.period * 100) }
  if slot.settings.mode = .onUpdate ∧ slot.updated = false then { next with skips := slot.skips + 1 }
  else if slot.pending.isSome then { next with misses := slot.misses + 1 }
  else { next with pending := some due }

/-- R98, R99: the due happening of a slot is a miss. -/
def Slot.misses? (slot : Slot) : Bool :=
  !(slot.settings.mode == .onUpdate && !slot.updated) && slot.pending.isSome

/-- R99: the age of the pending instance in plan units, at most 65,535. -/
def Slot.age (slot : Slot) (now : Nat) : Nat := min Config.max16 ((now - slot.pending.getD now) / 100)

/-- R98, R99: a slot falls due, with the SLOT_MISS notice of a miss. -/
def State.fallDue (slot : Slot) (due : Nat) (s : State) : State :=
  (s.withSlot (slot.fallDue due)).queueNoticeIf (slot.misses? && slot.settings.notifyMiss)
    { body := .slotMiss slot.index (slot.age s.time.runClock), line := some (lineQueue slot.line)
      tag := slot.settings.tag, stamp := s.now }

/-- SLOT_DUE (R98). -/
def execSlotDue (index : SlotNo) (s : State) : Host.Outcome State Fault Refusal :=
  s.happen fun s =>
    match s.slotAt index with
    | some slot =>
      match slot.nextDue with
      | some due => if s.reached due then s.fallDue slot due else s
      | none => s
    | none => s

/-- A slot enters the plan in its place by index (R93). -/
def insertSlot (slot : Slot) : List Slot → List Slot
  | [] => [slot]
  | other :: rest => if slot.index < other.index then slot :: other :: rest else other :: insertSlot slot rest

/-- R108, R95: ADD_SLOT. Where RANGE and another status both apply, RANGE is
answered (DESIGN CHOICE; notes/assumptions/29.md). -/
def ruleAddSlot (fields : List Byte) (s : State) : Answer :=
  match slotOf (numberAt fields 0 2), lineOf (byteAt fields 2), slotSettingsOf fields 3 with
  | some index, some line, some settings =>
    if (s.slotAt index).isSome then .refuse .exists
    else
      let slot : Slot :=
        { index, line, settings, remaining := settings.limit, nextDue := s.joinGrid line settings }
      let plan := insertSlot slot s.plan
      .ok { s with plan } (bigEndian 2 plan.length)
  | _, _, _ => .refuse .range

/-- ADD_SLOT (R108). -/
def execAddSlot (s : State) : Host.Outcome State Fault Refusal := s.happen (State.carryOut .addSlot ruleAddSlot)

/-- R110: what remains before the limit after CHANGE_SLOT: a changed limit restores it, and so does enabling a slot
that stands at 0. -/
def Slot.remainingAfter (slot : Slot) (settings : SlotSettings) : Option Nat :=
  if settings.limit ≠ slot.settings.limit then settings.limit
  else if slot.settings.enabled = false ∧ settings.enabled = true ∧ slot.remaining = some 0 then settings.limit
  else slot.remaining

/-- R109, R110: a slot with its settings replaced; `joined` is the next due time it takes where it joins a grid. -/
def Slot.change (slot : Slot) (settings : SlotSettings) (joined : Option Nat) : Slot :=
  let newGrid := settings.period ≠ slot.settings.period ∨ settings.phase ≠ slot.settings.phase
  { slot with
    settings
    remaining := slot.remainingAfter settings
    pending := if settings.enabled then slot.pending else none
    nextDue :=
      if settings.enabled = false then none
      else if slot.settings.enabled = false ∨ newGrid then joined
      else slot.nextDue }

/-- R109: CHANGE_SLOT. Where RANGE and another status both apply, RANGE is answered (DESIGN CHOICE;
notes/assumptions/29.md). -/
def ruleChangeSlot (fields : List Byte) (s : State) : Answer :=
  match slotOf (numberAt fields 0 2), slotSettingsOf fields 2 with
  | some index, some settings =>
    match s.slotAt index with
    | some slot => .ok (s.withSlot (slot.change settings (s.joinGrid slot.line settings))) []
    | none => .refuse .absent
  | _, _ => .refuse .range

/-- CHANGE_SLOT (R109). -/
def execChangeSlot (s : State) : Host.Outcome State Fault Refusal :=
  s.happen (State.carryOut .changeSlot ruleChangeSlot)

/-- R111: SET_VALUE. -/
def ruleSetValue (fields : List Byte) (s : State) : Answer :=
  match slotOf (numberAt fields 0 2) with
  | some index =>
    match s.slotAt index with
    | some slot =>
      let value : Value := BitVec.ofNat 24 (numberAt fields 2 3)
      .ok (s.withSlot { slot with settings := { slot.settings with value }, updated := true }) []
    | none => .refuse .absent
  | none => .refuse .range

/-- SET_VALUE (R111). -/
def execSetValue (s : State) : Host.Outcome State Fault Refusal := s.happen (State.carryOut .setValue ruleSetValue)

/-- R112: REMOVE_SLOT. -/
def ruleRemoveSlot (fields : List Byte) (s : State) : Answer :=
  match slotOf (numberAt fields 0 2) with
  | some index =>
    if (s.slotAt index).isSome then
      let plan := s.plan.filter fun slot => slot.index != index
      .ok { s with plan } (bigEndian 2 plan.length)
    else .refuse .absent
  | none => .refuse .range

/-- REMOVE_SLOT (R112). -/
def execRemoveSlot (s : State) : Host.Outcome State Fault Refusal :=
  s.happen (State.carryOut .removeSlot ruleRemoveSlot)

/-- R113: a slot as READ_SLOT returns it (Table 11-4). -/
def slotResults (slot : Slot) : List Byte :=
  slotSettingsBytes slot.line slot.settings ++ [yesNoByte slot.updated] ++ presentField 8 slot.pending ++
    presentField 8 slot.nextDue ++ bigEndian 2 (optionalNumber slot.remaining) ++ bigEndian 4 slot.sent.toNat ++
    bigEndian 4 slot.misses.toNat ++ bigEndian 4 slot.skips.toNat

/-- R113: READ_SLOT, with its clear option. Where RANGE and another status both apply, RANGE is
answered (DESIGN CHOICE; notes/assumptions/29.md). -/
def ruleReadSlot (fields : List Byte) (s : State) : Answer :=
  match slotOf (numberAt fields 0 2), yesNoOf (byteAt fields 2) with
  | some index, some clear =>
    match s.slotAt index with
    | some slot =>
      .ok (if clear then s.withSlot { slot with sent := 0, misses := 0, skips := 0 } else s) (slotResults slot)
    | none => .refuse .absent
  | _, _ => .refuse .range

/-- READ_SLOT (R113). -/
def execReadSlot (s : State) : Host.Outcome State Fault Refusal := s.happen (State.carryOut .readSlot ruleReadSlot)

/-- R102: SEND, judged in the order of its table. -/
def ruleSend (fields : List Byte) (s : State) : Answer :=
  let count := (byteAt fields 1).toNat
  match lineOf (byteAt fields 0), sendWordsOf (fields.drop 2) count with
  | some line, some words =>
    let p := s.port line
    if count = 0 ∨ count > 16 then .refuse .range
    else if p.config.role ≠ .transmit ∧ p.config.role ≠ .echo then .refuse .state
    else if p.state ≠ .ready ∧ p.state ≠ .running then .refuse .state
    else if p.sendQueue.length + count > Config.sendQueueWords then .refuse .full
    else
      let queue := p.sendQueue ++ words
      .ok (s.withPort line { p with sendQueue := queue }) (bigEndian 1 queue.length)
  | _, _ => .refuse .range

/-- SEND (R102). -/
def execSend (s : State) : Host.Outcome State Fault Refusal := s.happen (State.carryOut .send ruleSend)

end Sys2Proof.Machine
end

