-- ==== Sys2Proof/Machine/Queues.lean ====
section
/-! DEFINITION. The queue requests (Chapter 4): SET_QUEUE, READ_QUEUE. -/

namespace Sys2Proof.Machine

/-- R76: a queue after a depth change: every record held is discarded as lost, the full notice is re-armed. -/
def CaptureQueue.resize (depth : Nat) (policy : QueuePolicy) (q : CaptureQueue) : CaptureQueue :=
  { q.lose q.records.length with depth, policy, records := [], inFlight := 0, armed := true }

/-- R75: the line of a queue is RUNNING or STOPPING; the merged queue has no line. -/
def State.queueInUse (s : State) (n : QueueNo) : Bool :=
  if h : n.val < 12 then
    (s.port ⟨n.val, h⟩).state == .running || (s.port ⟨n.val, h⟩).state == .stopping
  else false

/-- R75, R76: SET_QUEUE, judged in the order of R75's table. A depth of FFFFh keeps the depth (R173). -/
def ruleSetQueue (fields : List Byte) (s : State) : Answer :=
  let depth := numberAt fields 1 2
  match queueOf (byteAt fields 0), queuePolicyOf (byteAt fields 3) with
  | some n, some policy =>
    if depth = 0xFFFF then
      .ok (s.withQueue n { s.queue n with policy }) (bigEndian 2 0 ++ bigEndian 2 s.freePool)
    else if depth > Config.poolRecords then .refuse .range
    else if n = mergedQueue then .refuse .range
    else if s.queueInUse n then .refuse .state
    else if (s.queue n).inFlight > 0 then .refuse .state
    else if s.otherDepths n + depth > Config.poolRecords then .refuse .full
    else
      let s1 := s.withQueue n ((s.queue n).resize depth policy)
      .ok s1 (bigEndian 2 (s.queue n).records.length ++ bigEndian 2 s1.freePool)
  | _, _ => .refuse .range

/-- SET_QUEUE (R75). -/
def execSetQueue (s : State) : Host.Outcome State Fault Refusal := s.happen (State.carryOut .setQueue ruleSetQueue)

/-- R77: a queue as READ_QUEUE returns it (Table 11-4). -/
def queueResults (q : CaptureQueue) : List Byte :=
  bigEndian 2 q.depth ++ [queuePolicyByte q.policy] ++ bigEndian 2 q.records.length ++ bigEndian 1 q.inFlight ++
    bigEndian 4 q.pendingLoss ++ bigEndian 4 q.offered.toNat ++ bigEndian 4 q.acknowledged.toNat ++
    bigEndian 4 q.lostTotal.toNat ++ [yesNoByte q.armed]

/-- R77: READ_QUEUE; its clear option is refused with STATE while anything is held. Where RANGE and another status both
apply, RANGE is answered (DESIGN CHOICE; notes/assumptions/29.md). -/
def ruleReadQueue (fields : List Byte) (s : State) : Answer :=
  match queueOf (byteAt fields 0), yesNoOf (byteAt fields 1) with
  | some n, some clear =>
    if clear = false then .ok s (queueResults (s.queue n))
    else if (s.queue n).records ≠ [] then .refuse .state
    else
      .ok (s.withQueue n { s.queue n with offered := 0, acknowledged := 0, lostTotal := 0 })
        (queueResults (s.queue n))
  | _, _ => .refuse .range

/-- READ_QUEUE (R77). -/
def execReadQueue (s : State) : Host.Outcome State Fault Refusal := s.happen (State.carryOut .readQueue ruleReadQueue)

end Sys2Proof.Machine
end

