-- ==== Sys2Proof/Machine/Receive.lean ====
section
/-! DEFINITION. The receiver and the echo comparator's inputs (Chapters 1 and 7): FIRST_EDGE, BIT_DECODED,
CODING_VIOLATION, END_OF_WORD, MISSED_WORD_ENDED, MISSING_TIME_REACHED. -/

namespace Sys2Proof.Machine

/-- FIRST_EDGE (R7, R6): in IDLE the receiver enters IN_WORD with a bit count of 0, unless the pair still carries a word
it missed; in every other state the edge shows on the pair only. -/
def execFirstEdge (line : LineNo) (sense : Polarity) (s : State) : Host.Outcome State Fault Refusal :=
  s.happen (State.mapPort line fun p =>
    { p with
      pair := some sense
      receiver :=
        match p.receiver with
        | .idle false => .inWord 0 0
        | r => r })

/-- A bit in IN_WORD (R3, R7): decoded and placed where the halves are of opposite sense, else a coding violation. -/
def Receiver.takeBit (first second : Polarity) : Receiver → Receiver
  | .inWord count bits =>
    match bitOfHalves first second with
    | some bit => .inWord (count + 1) (placeBit count bit bits)
    | none => .discarding count bits
  | r => r

/-- BIT_DECODED (R7). -/
def execBitDecoded (line : LineNo) (first second : Polarity) (s : State) : Host.Outcome State Fault Refusal :=
  s.happen (State.mapPort line fun p =>
    { p with
      pair := p.pair.map fun _ => second
      receiver := p.receiver.takeBit first second })

/-- CODING_VIOLATION (R7): IN_WORD becomes DISCARDING with count and positions as they were. -/
def execCodingViolation (line : LineNo) (s : State) : Host.Outcome State Fault Refusal :=
  s.happen (State.mapPort line fun p =>
    { p with
      receiver :=
        match p.receiver with
        | .inWord count bits => .discarding count bits
        | r => r })

/-- The kind of outcome a receiver's word ends with, and its positions (R8); `none` where no word is in progress. -/
def Receiver.wordEnd : Receiver → Option (OutcomeKind × LineBits)
  | .inWord count bits => some (outcomeInWord count bits, bits)
  | .discarding count bits => some (outcomeDiscarding count, bits)
  | .dormant | .idle _ => none

/-- An error of a RECEIVE line is counted by kind (R9, R15). -/
def LineCounters.countError (kind : ErrorKind) (c : LineCounters) : LineCounters :=
  match kind with
  | .check => { c with checkErrors := c.checkErrors + 1 }
  | .length => { c with lengthErrors := c.lengthErrors + 1 }
  | .code => { c with codeErrors := c.codeErrors + 1 }

/-- R9, R10, R11: an outcome on a RECEIVE line is counted; a word is offered to the intake; an error may queue a
LINE_ERROR notice and, under CAPTURE, is offered as an error-word item. -/
def State.receiveOutcome (line : LineNo) (o : ReceiverOutcome) (s : State) : State :=
  let config := (s.port line).config
  match o.kind with
  | .word =>
    let s1 := s.countLine line fun c => { c with wordsReceived := c.wordsReceived + 1 }
    s1.offerItem { kind := .word, line, bits := o.bits, stamp := o.stamp, offeredAt := s.time.runClock }
  | .error kind count =>
    let s1 := s.countLine line (LineCounters.countError kind)
    let s2 := s1.queueNoticeIf config.errorNotice
      { body := .lineError kind count, line := some (lineQueue line), tag := lineTag o.bits, stamp := o.stamp }
    if config.captureErrors then
      s2.offerItem
        { kind := .errorWord kind count, line, bits := o.bits, stamp := o.stamp, offeredAt := s.time.runClock }
    else s2

/-- R12, R116: an outcome on an ECHO line goes to a WAITING comparator, held until SENDING ends or judged at once;
any other outcome is a foreign word. -/
def State.echoOutcome (line : LineNo) (o : ReceiverOutcome) (s : State) : State :=
  let p := s.port line
  match p.comparator, p.transmitter with
  | .waiting word _, .sending _ _ => s.withPort line { p with comparator := .held word o }
  | .waiting word _, _ => s.judged line word (judge word o) o.stamp
  | _, _ => s.countLine line fun c => { c with foreignWords := c.foreignWords + 1 }

/-- END_OF_WORD (R8): the receiver returns to IDLE and produces one stamped outcome, handled by the line's role. -/
def execEndOfWord (line : LineNo) (s : State) : Host.Outcome State Fault Refusal :=
  s.happen fun s =>
    let p := s.port line
    match p.receiver.wordEnd with
    | none => s.withPort line { p with pair := none }
    | some (kind, bits) =>
      let s1 := s.withPort line { p with pair := none, receiver := .idle false }
      let o : ReceiverOutcome := { kind, bits, stamp := s.now }
      if p.config.role = .echo then s1.echoOutcome line o else s1.receiveOutcome line o

/-- MISSED_WORD_ENDED (R6): only now does the receiver look for a first edge. -/
def execMissedWordEnded (line : LineNo) (s : State) : Host.Outcome State Fault Refusal :=
  s.happen (State.mapPort line fun p =>
    { p with
      pair := none
      receiver :=
        match p.receiver with
        | .idle _ => .idle false
        | r => r })

/-- R118: the word whose missing time has been reached while the comparator is still WAITING. -/
def State.missingWord (s : State) (line : LineNo) : Option LineBits :=
  match (s.port line).comparator with
  | .waiting word (some t) => if s.reached t then some word else none
  | _ => none

/-- MISSING_TIME_REACHED (R118): the word is judged MISSING. -/
def execMissingTimeReached (line : LineNo) (s : State) : Host.Outcome State Fault Refusal :=
  s.happen fun s =>
    match s.missingWord line with
    | some word => s.judged line word .missing s.now
    | none => s

end Sys2Proof.Machine
end

