-- ==== Sys2Proof/Machine/Tags.lean ====
section
/-! DEFINITION. The Tag Table and freshness (Chapters 2 and 3): INTAKE_TAKE, TAG_TABLE_WORK_DONE, FRESHNESS_EXPIRY,
ADD_TAG, CHANGE_TAG, REMOVE_TAG, READ_TAG, LIST_TAGS, CLEAR_TAGS. -/

namespace Sys2Proof.Machine

/-! ### Taking an item -/

/-- R25: the exact entry of line and tag, else the ANY entry of the tag. -/
def State.lookup (s : State) (line : LineNo) (tag : Tag) : Option Entry :=
  (s.entryOf ⟨.port line, tag⟩).or (s.entryOf ⟨.any, tag⟩)

/-- R52: the interval of an early word, `none` where the word is not early. -/
def Entry.earlyInterval (e : Entry) (now : Nat) : Option Nat :=
  match e.settings.minInterval, e.lastAccepted with
  | some min, some last => if now - last < min * 1000 then some (now - last) else none
  | _, _ => none

/-- R28: a word is changed when latest is absent or holds another value. -/
def Entry.changedBy (e : Entry) (value : Value) : Bool :=
  match e.latest with
  | some latest => latest.value != value
  | none => true

/-- R45: freshness when the entry accepts a word. -/
def Freshness.accepted (deadline : Option Nat) (now : Nat) : Freshness → Freshness
  | .unseen _ | .fresh _ | .stale _ => .fresh (now + optionalNumber deadline * 1000)
  | .none => .none
  | .idle => .idle

/-- R30: a word held back from routing by on change. -/
def Entry.holdsBack (e : Entry) (value : Value) : Bool := e.settings.onChange && !e.changedBy value

/-- R28, R29, R30: the entry after it accepted a word of an item. -/
def Entry.accept (e : Entry) (item : Item) (now : Nat) : Entry :=
  { e with
    accepted := e.accepted + 1
    lastAccepted := some now
    firstDue := false
    freshness := e.freshness.accepted e.settings.deadline now
    latest :=
      if e.settings.keepLatest then some { value := lineValue item.bits, stamp := item.stamp, line := item.line }
      else none
    unchanged := if e.holdsBack (lineValue item.bits) then e.unchanged + 1 else e.unchanged }

/-- R49: the FRESH_AGAIN notice of a word that finds its entry STALE, with the time stale in ms. -/
def State.noticeFreshAgain (e : Entry) (item : Item) (s : State) : State :=
  match e.freshness with
  | .stale since =>
    s.queueNotice
      { body := .freshAgain (min Config.max32 ((s.time.runClock - since) / 1000))
        line := some (lineQueue item.line), tag := e.key.tag, stamp := item.stamp }
  | .none | .idle | .unseen _ | .fresh _ => s

/-- R30, R31: the records of a matched word, the line queue before the merged queue. -/
def State.route (e : Entry) (early : Bool) (item : Item) (s : State) : State :=
  let r : CaptureRecord :=
    { body := .word { early, first := e.firstDue, changed := e.changedBy (lineValue item.bits), any := e.key.line == .any }
      line := lineQueue item.line, bits := item.bits, stamp := item.stamp }
  if e.holdsBack (lineValue item.bits) then s
  else
    let s1 := if e.settings.routeLine then s.offer (lineQueue item.line) r else s
    if e.settings.routeMerged then s1.offer mergedQueue r else s1

/-- R32: whether a word that reached the fifth step queues a CHANGE notice. -/
def Entry.notifies (e : Entry) (value : Value) : Bool :=
  match e.settings.notify with
  | .none => false
  | .each => true
  | .change => e.changedBy value

/-- R28 to R32: acceptance, freshness, latest, routing and the CHANGE notice of a matched word, in this order. `e` is
the entry as the early check left it. -/
def State.acceptWord (e : Entry) (early : Bool) (item : Item) (s : State) : State :=
  let value := lineValue item.bits
  let s1 := s.withEntry (e.accept item s.time.runClock)
  let s2 := s1.noticeFreshAgain e item
  let s3 := s2.route e early item
  s3.queueNoticeIf (e.notifies value)
    { body := .change (e.changedBy value) value, line := some (lineQueue item.line), tag := e.key.tag
      stamp := item.stamp }

/-- R27, R53, R54: the early check, and then the other steps unless the word is dropped. -/
def State.processMatched (e : Entry) (item : Item) (s : State) : State :=
  match e.earlyInterval s.time.runClock with
  | none => s.acceptWord e false item
  | some interval =>
    let e1 := { e with early := e.early + 1 }
    let s1 := (s.withEntry e1).queueNoticeIf e.settings.notifyEarly
      { body := .early e.settings.earlyAction interval, line := some (lineQueue item.line), tag := e.key.tag
        stamp := item.stamp }
    match e.settings.earlyAction with
    | .drop => s1
    | .keep => s1.acceptWord e1 true item

/-- R26: a miss is counted at its line and recorded by the line's miss route. -/
def State.miss (item : Item) (s : State) : State :=
  let r : CaptureRecord :=
    { body := .word { miss := true }, line := lineQueue item.line, bits := item.bits, stamp := item.stamp }
  let s1 := s.countLine item.line fun c => { c with misses := c.misses + 1 }
  match (s.port item.line).config.missRoute with
  | .none => s1
  | .line => s1.offer (lineQueue item.line) r
  | .merged => s1.offer mergedQueue r
  | .both => (s1.offer (lineQueue item.line) r).offer mergedQueue r

/-- R24, R60: the Tag Table's work on an item by its kind. -/
def State.processItem (item : Item) (s : State) : State :=
  match item.kind with
  | .word =>
    match s.lookup item.line (lineTag item.bits) with
    | some e => s.processMatched e item
    | none => s.miss item
  | .errorWord kind count =>
    s.offer (lineQueue item.line)
      { body := .errorWord kind count, line := lineQueue item.line, bits := item.bits, stamp := item.stamp }
  | .echo =>
    s.offer (lineQueue item.line)
      { body := .word { own := true }, line := lineQueue item.line, bits := item.bits, stamp := item.stamp }

/-- R18, R24, R62: the oldest item is taken, all its work is done, and the LINE_START MARKs attached to it follow. -/
def State.takeItem (item : Item) (rest : List Item) (s : State) : State :=
  let s1 := { s with intake := rest, busy := some { item := { item with marks := [] }, takenAt := s.time.runClock } }
  (s1.processItem item).offerStartMarks item.line item.marks

/-- INTAKE_TAKE (R24). -/
def execIntakeTake (s : State) : Host.Outcome State Fault Refusal :=
  s.happen fun s =>
    match s.intake with
    | item :: rest => if s.mayTakeItem then s.takeItem item rest else s
    | [] => s

/-- R18, R62, R43, R44: the Tag Table's work ends: MARKs attached to the item meanwhile are offered, line starts and
stops that waited reach the entries, and the Tag Table is not busy. DESIGN CHOICE: a line change that waited, with the
expiries of a stopped line, comes before the expiries of other lines' entries that waited, whatever their times
(notes/assumptions/9.md). -/
def State.workDone (busy : Busy) (s : State) : State :=
  let s1 := { s with busy := none, lineChanges := [] }
  s.lineChanges.foldl State.applyLineChange (s1.offerStartMarks busy.item.line busy.item.marks)

/-- TAG_TABLE_WORK_DONE (R18): no earlier than 1 µs after the take. -/
def execTagTableWorkDone (s : State) : Host.Outcome State Fault Refusal :=
  s.happen fun s =>
    match s.busy with
    | some busy => if s.reached busy.mayEndAt then s.workDone busy else s
    | none => s

/-- FRESHNESS_EXPIRY (R46): taken when the Tag Table is not busy. -/
def execFreshnessExpiry (line : LineNo) (tag : Tag) (s : State) : Host.Outcome State Fault Refusal :=
  s.happen fun s =>
    match s.entryOf ⟨.port line, tag⟩ with
    | some e => if s.busy.isNone && s.expiryDue e then s.expire e else s
    | none => s

/-! ### Requests -/

/-- R42, R50: the freshness of an entry that comes to hold a deadline. -/
def State.firstFreshness (s : State) (key : Key) (deadline : Option Nat) : Freshness :=
  match deadline, key.line with
  | none, _ => .none
  | some ms, .port line => if (s.port line).monitoring then .unseen (s.time.runClock + ms * 1000) else .idle
  | some _, .any => .idle

/-- An entry enters the table in its place in listing order (R19, R20). -/
def insertEntry (e : Entry) : List Entry → List Entry
  | [] => [e]
  | other :: rest => if e.key.rank < other.key.rank then e :: other :: rest else other :: insertEntry e rest

/-- R34: ADD_TAG. -/
def ruleAddTag (fields : List Byte) (s : State) : Answer :=
  match keyOf fields 0, entrySettingsOf fields 3 with
  | some key, some settings =>
    if settings.allowedFor key = false then .refuse .range
    else if (s.entryOf key).isSome then .refuse .exists
    else if s.tags.length ≥ Config.tagEntries then .refuse .full
    else
      let tags := insertEntry { key, settings, freshness := s.firstFreshness key settings.deadline } s.tags
      .ok { s with tags } (bigEndian 2 tags.length)
  | _, _ => .refuse .range

/-- ADD_TAG (R34). -/
def execAddTag (s : State) : Host.Outcome State Fault Refusal := s.happen (State.carryOut .addTag ruleAddTag)

/-- R50: freshness when CHANGE_TAG gives another deadline. -/
def State.changedFreshness (s : State) (e : Entry) (deadline : Option Nat) : Freshness :=
  if deadline = e.settings.deadline then e.freshness
  else match deadline, e.freshness with
    | none, _ => .none
    | some _, .none => s.firstFreshness e.key deadline
    | some ms, .unseen _ => .unseen (s.time.runClock + ms * 1000)
    | some ms, .fresh _ => .fresh (s.time.runClock + ms * 1000)
    | some _, .stale since => .stale since
    | some _, .idle => .idle

/-- R35: CHANGE_TAG. -/
def ruleChangeTag (fields : List Byte) (s : State) : Answer :=
  match keyOf fields 0, entrySettingsOf fields 3 with
  | some key, some settings =>
    if settings.allowedFor key = false then .refuse .range
    else match s.entryOf key with
      | none => .refuse .absent
      | some e =>
        .ok (s.withEntry { e with
          settings
          latest := if settings.keepLatest then e.latest else none
          freshness := s.changedFreshness e settings.deadline }) []
  | _, _ => .refuse .range

/-- CHANGE_TAG (R35). -/
def execChangeTag (s : State) : Host.Outcome State Fault Refusal := s.happen (State.carryOut .changeTag ruleChangeTag)

/-- R36: REMOVE_TAG. -/
def ruleRemoveTag (fields : List Byte) (s : State) : Answer :=
  match keyOf fields 0 with
  | none => .refuse .range
  | some key =>
    if (s.entryOf key).isSome then
      let tags := s.tags.filter fun e => e.key != key
      .ok { s with tags } (bigEndian 2 tags.length)
    else .refuse .absent

/-- REMOVE_TAG (R36). -/
def execRemoveTag (s : State) : Host.Outcome State Fault Refusal := s.happen (State.carryOut .removeTag ruleRemoveTag)

/-- R51: the freshness time of READ_TAG in ms: remaining rounded up, or spent stale rounded down. -/
def Freshness.time (now : Nat) : Freshness → Nat
  | .unseen expiry | .fresh expiry => (expiry - now + 999) / 1000
  | .stale since => min Config.max32 ((now - since) / 1000)
  | .none | .idle => 0

/-- Latest as READ_TAG returns it (Table 11-4). -/
def latestBytes : Option Latest → List Byte
  | some l => 1 :: bigEndian 3 l.value.toNat ++ bigEndian 8 l.stamp.time ++ [l.stamp.epoch, BitVec.ofNat 8 l.line.val]
  | none => 0 :: bigEndian 3 0 ++ bigEndian 8 0 ++ [0, 0]

/-- R37: an entry as READ_TAG returns it (Table 11-4). -/
def entryResults (e : Entry) (now : Nat) : List Byte :=
  entrySettingsBytes e.settings ++ bigEndian 4 e.accepted.toNat ++ bigEndian 4 e.early.toNat ++
    bigEndian 4 e.unchanged.toNat ++ [yesNoByte e.firstDue, freshnessByte e.freshness] ++
    bigEndian 4 (e.freshness.time now) ++ presentField 8 e.lastAccepted ++ latestBytes e.latest

/-- R37: READ_TAG, with its clear option. Where RANGE and another status both apply, RANGE is
answered (DESIGN CHOICE; notes/assumptions/29.md). -/
def ruleReadTag (fields : List Byte) (s : State) : Answer :=
  match keyOf fields 0, yesNoOf (byteAt fields 3) with
  | some key, some clear =>
    match s.entryOf key with
    | none => .refuse .absent
    | some e =>
      .ok (if clear then s.withEntry { e with accepted := 0, early := 0, unchanged := 0 } else s)
        (entryResults e s.time.runClock)
  | _, _ => .refuse .range

/-- READ_TAG (R37). -/
def execReadTag (s : State) : Host.Outcome State Fault Refusal := s.happen (State.carryOut .readTag ruleReadTag)

/-- R38: the keys at or after a start key in listing order. -/
def State.keysFrom (s : State) (start : Key) : List Key :=
  (s.tags.map Entry.key).filter fun key => decide (start.rank ≤ key.rank)

/-- The twelve key places of a LIST_TAGS reply; places after the last key are 0 (R172). -/
def keyPlaces (keys : List Key) : List Byte :=
  (keys.map keyBytes).flatten ++ List.replicate (36 - 3 * keys.length) 0

/-- R38: LIST_TAGS. -/
def ruleListTags (fields : List Byte) (s : State) : Answer :=
  let most := (byteAt fields 3).toNat
  match keyOf fields 0 with
  | none => .refuse .range
  | some start =>
    if most = 0 ∨ most > 12 then .refuse .range
    else
      let keys := s.keysFrom start
      let listed := keys.take most
      .ok s (BitVec.ofNat 8 listed.length :: yesNoByte (decide (most < keys.length)) :: keyPlaces listed)

/-- LIST_TAGS (R38). -/
def execListTags (s : State) : Host.Outcome State Fault Refusal := s.happen (State.carryOut .listTags ruleListTags)

/-- R39: whether a CLEAR_TAGS selector names an entry; `none` where the selector is out of range. -/
def selectorOf (b : Byte) : Option (Entry → Bool) :=
  if b.toNat = 255 then some fun _ => true
  else (keyLineOf b).map fun line e => e.key.line == line

/-- R39: CLEAR_TAGS. -/
def ruleClearTags (fields : List Byte) (s : State) : Answer :=
  match selectorOf (byteAt fields 0) with
  | none => .refuse .range
  | some selects =>
    .ok { s with tags := s.tags.filter fun e => !selects e } (bigEndian 2 (s.tags.countP selects))

/-- CLEAR_TAGS (R39). -/
def execClearTags (s : State) : Host.Outcome State Fault Refusal := s.happen (State.carryOut .clearTags ruleClearTags)

end Sys2Proof.Machine
end

