-- ==== Sys2Proof/Machine/Time.lean ====
section
/-! DEFINITION. The time base (Chapter 5): PULSE_EDGE, ARM_WINDOW_EXPIRY, SET_TIME, ARM_TIME, CANCEL_ARM, READ_TIME,
SET_PULSE_NOTICE. -/

namespace Sys2Proof.Machine

/-- R90: in ARMED, a taken edge loads the arm value, queues TIME_ALIGNED and returns the time base to FREE. -/
def State.alignedLoad (s : State) : State :=
  match s.time.arm with
  | none => s
  | some arm =>
    let s1 := s.load arm.value .timeAligned
    let s2 := s1.queueNotice
      { body := .timeAligned ((s.time.runClock - arm.start) / 1000), line := none, tag := 0, stamp := s1.now }
    { s2 with time := { s2.time with arm := none } }

/-- R90, R91: a taken edge, with its load, its PULSE notice, and the new last taken edge. -/
def State.takeEdge (s : State) : State :=
  let s1 := s.alignedLoad
  let s2 := s1.queueNoticeIf s.time.pulseNotices
    { body := .pulse s.time.arm.isSome s.time.edgesSince, line := none, tag := 0, stamp := s1.now }
  { s2 with time := { s2.time with lastEdge := some s.time.runClock, edgesSince := 0 } }

/-- R89: an edge ignored for spacing is counted and does nothing else. -/
def State.ignoreEdge (s : State) : State :=
  { s with time := { s.time with
      ignoredEdges := s.time.ignoredEdges + 1
      edgesSince := saturate Config.max32 s.time.edgesSince 1 } }

/-- PULSE_EDGE (R89). -/
def execPulseEdge (s : State) : Host.Outcome State Fault Refusal :=
  s.happen fun s => if s.time.edgeTaken then s.takeEdge else s.ignoreEdge

/-- R88: the window runs out, the time base returns to FREE and ARM_EXPIRED is queued with the window in ms. -/
def State.expireArm (s : State) : State :=
  match s.time.arm with
  | none => s
  | some arm =>
    let s1 := { s with time := { s.time with arm := none } }
    s1.queueNotice
      { body := .armExpired ((arm.expiry - arm.start) / 1000), line := none, tag := 0, stamp := s.now }

/-- ARM_WINDOW_EXPIRY (R88). -/
def execArmWindowExpiry (s : State) : Host.Outcome State Fault Refusal :=
  s.happen fun s => if s.armExpiryDue then s.expireArm else s

/-- R85: SET_TIME, with the line time before the load, the new epoch and the run clock in its reply. -/
def ruleSetTime (fields : List Byte) (s : State) : Answer :=
  let value := numberAt fields 0 8
  if value > Config.largestLineTime then .refuse .range
  else
    let s1 := s.load value .timeSet
    .ok s1 (bigEndian 8 s.time.lineTime ++ [s1.time.epoch] ++ bigEndian 8 s.time.runClock)

/-- SET_TIME (R85). -/
def execSetTime (s : State) : Host.Outcome State Fault Refusal := s.happen (State.carryOut .setTime ruleSetTime)

/-- R86: ARM_TIME sets or replaces the arm. -/
def ruleArmTime (fields : List Byte) (s : State) : Answer :=
  let value := numberAt fields 0 8
  let window := numberAt fields 8 2
  if value > Config.largestLineTime ∨ window = 0 ∨ window > 10000 then .refuse .range
  else
    let expiry := s.time.runClock + window * 1000
    .ok { s with time := { s.time with arm := some { value, start := s.time.runClock, expiry } } }
      (bigEndian 8 expiry)

/-- ARM_TIME (R86). -/
def execArmTime (s : State) : Host.Outcome State Fault Refusal := s.happen (State.carryOut .armTime ruleArmTime)

/-- R87: CANCEL_ARM returns the time base to FREE and says whether an arm was cancelled. -/
def ruleCancelArm (_fields : List Byte) (s : State) : Answer :=
  .ok { s with time := { s.time with arm := none } } [yesNoByte s.time.arm.isSome]

/-- CANCEL_ARM (R87). -/
def execCancelArm (s : State) : Host.Outcome State Fault Refusal := s.happen (State.carryOut .cancelArm ruleCancelArm)

/-- R92: the time base as READ_TIME returns it (Table 11-4); the remaining window is rounded up to ms. -/
def timeResults (t : TimeBase) : List Byte :=
  bigEndian 8 t.runClock ++ bigEndian 8 t.lineTime ++ [t.epoch, yesNoByte t.arm.isSome] ++
    bigEndian 8 ((t.arm.map Arm.value).getD 0) ++
    bigEndian 2 ((t.arm.map fun arm => (arm.expiry - t.runClock + 999) / 1000).getD 0) ++
    presentField 8 t.lastEdge ++ bigEndian 4 t.edgesSince ++ bigEndian 4 t.ignoredEdges.toNat ++
    [yesNoByte t.pulseNotices]

/-- READ_TIME (R92). -/
def execReadTime (s : State) : Host.Outcome State Fault Refusal :=
  s.happen (State.carryOut .readTime fun _ s => .ok s (timeResults s.time))

/-- R91: SET_PULSE_NOTICE sets the pulse notice switch. -/
def ruleSetPulseNotice (fields : List Byte) (s : State) : Answer :=
  match yesNoOf (byteAt fields 0) with
  | none => .refuse .range
  | some switch => .ok { s with time := { s.time with pulseNotices := switch } } []

/-- SET_PULSE_NOTICE (R91). -/
def execSetPulseNotice (s : State) : Host.Outcome State Fault Refusal :=
  s.happen (State.carryOut .setPulseNotice ruleSetPulseNotice)

end Sys2Proof.Machine
end

