-- ==== Sys2Proof/Machine/Schedule.lean ====
section
/-! DEFINITION. What the part does of itself when no command waits: the first of its own happenings that is due. The
spec says of each that it comes about "whenever" or "when" its condition holds (R13, R18, R46, R88, R98, R103, R118,
R133, R141, R147, R148, R153, R161, R166). DESIGN CHOICE: their order, where several are due at one moment
(notes/assumptions/4.md); commands in the queue may take them in any other order. -/

namespace Sys2Proof.Machine

/-- The first line for which a condition holds, as a command for it. -/
def firstLine (condition : LineNo → Bool) (command : LineNo → Instr) : Option Instr :=
  ((List.finRange 12).find? condition).map command

/-- R148, R33: the row of the request that the executor can carry out now: the one that waited for the Tag Table, else
the head of the request queue. -/
def State.nextRequest (s : State) : Option Instr :=
  match s.link.executing with
  | some e => if e.hold = .atTagTable ∧ s.tagTableFree then some (requestCommand e.request.payload) else none
  | none => if s.mayTakeRequest then s.link.requests.head?.map fun r => requestCommand r.payload else none

/-- R46: the expiry of the first entry in listing order whose expiry is due, while the Tag Table is not busy. -/
def State.nextExpiry (s : State) : Option Instr :=
  if s.busy.isSome then none
  else s.tags.findSome? fun e =>
    match e.key.line with
    | .port line => if s.expiryDue e then some (.freshnessExpiry line e.key.tag) else none
    | .any => none

/-- Of the happenings the run clock brings about, the first that is due. -/
def State.nextTimed (s : State) : Option Instr :=
  [if s.resetTakesEffectNow then some .resetFullTakesEffect else none,
   if (s.busy.map fun b => s.reached b.doneBy) = some true then some .tagTableWorkDone else none,
   if (s.link.transmitter.map s.frameSent) = some true then some .linkFrameComplete else none,
   if s.byteGapRunOut then some .interByteTimeout else none,
   firstLine s.sendingEnded .endOfSending,
   firstLine (fun n => (s.missingWord n).isSome) .missingTimeReached,
   firstLine s.spacingEnded .endOfSpacing,
   if s.armExpiryDue then some .armWindowExpiry else none,
   s.nextExpiry,
   (s.plan.find? s.slotDue).map fun slot => .slotDue slot.index,
   if s.retransmitDue then some .retransmitTimeout else none].findSome? id

/-- Of the happenings that come about at once, the first whose condition holds. -/
def State.nextPrompt (s : State) : Option Instr :=
  [firstLine (fun n => (s.port n).stopCanEnd) .stopEnd,
   firstLine (fun n => (s.selection n).isSome) .transmitSelection,
   s.nextRequest,
   if s.mayTakeItem then some .intakeTake else none,
   if s.mayForm then some .reportFormation else none,
   if s.transmitterIdle && (!s.link.replies.isEmpty || s.offeredReport.isSome) then some .linkFrameStart
   else none].findSome? id

/-- The happening the part takes of itself, `none` where nothing is due and only time can pass. -/
def State.nextHappening (s : State) : Option Instr :=
  if s.held then none else s.nextTimed.or s.nextPrompt

end Sys2Proof.Machine
end

