-- ==== Sys2Proof/Machine/Dispatch.lean ====
section
/-! DEFINITION. One arm for each command, each one call of its meaning. -/

namespace Sys2Proof.Machine

/-- The effect of a command on everything but the queue of waiting commands. -/
def exec (i : Instr) (s : State) : Host.Outcome State Fault Refusal :=
  match i with
  | .powerOn lrate => Sys2Proof.Machine.execPowerOn lrate s
  | .rstnLow => Sys2Proof.Machine.execRstnLow s
  | .pulseEdge => Sys2Proof.Machine.execPulseEdge s
  | .armWindowExpiry => Sys2Proof.Machine.execArmWindowExpiry s
  | .firstEdge line sense => Sys2Proof.Machine.execFirstEdge line sense s
  | .bitDecoded line first second => Sys2Proof.Machine.execBitDecoded line first second s
  | .codingViolation line => Sys2Proof.Machine.execCodingViolation line s
  | .endOfWord line => Sys2Proof.Machine.execEndOfWord line s
  | .missedWordEnded line => Sys2Proof.Machine.execMissedWordEnded line s
  | .missingTimeReached line => Sys2Proof.Machine.execMissingTimeReached line s
  | .endOfSending line => Sys2Proof.Machine.execEndOfSending line s
  | .endOfSpacing line => Sys2Proof.Machine.execEndOfSpacing line s
  | .transmitSelection line => Sys2Proof.Machine.execTransmitSelection line s
  | .stopEnd line => Sys2Proof.Machine.execStopEnd line s
  | .slotDue index => Sys2Proof.Machine.execSlotDue index s
  | .intakeTake => Sys2Proof.Machine.execIntakeTake s
  | .tagTableWorkDone => Sys2Proof.Machine.execTagTableWorkDone s
  | .freshnessExpiry line tag => Sys2Proof.Machine.execFreshnessExpiry line tag s
  | .byteReceived byte stopHigh => Sys2Proof.Machine.execByteReceived byte stopHigh s
  | .startBit => Sys2Proof.Machine.execStartBit s
  | .interByteTimeout => Sys2Proof.Machine.execInterByteTimeout s
  | .unknownRequest => Sys2Proof.Machine.execUnknownRequest s
  | .identify => Sys2Proof.Machine.execIdentify s
  | .getStatus => Sys2Proof.Machine.execGetStatus s
  | .resetTraffic => Sys2Proof.Machine.execResetTraffic s
  | .resetFull => Sys2Proof.Machine.execResetFull s
  | .resetFullTakesEffect => Sys2Proof.Machine.execResetFullTakesEffect s
  | .configureLine => Sys2Proof.Machine.execConfigureLine s
  | .startLine => Sys2Proof.Machine.execStartLine s
  | .stopLine => Sys2Proof.Machine.execStopLine s
  | .readLine => Sys2Proof.Machine.execReadLine s
  | .clearFault => Sys2Proof.Machine.execClearFault s
  | .addTag => Sys2Proof.Machine.execAddTag s
  | .changeTag => Sys2Proof.Machine.execChangeTag s
  | .removeTag => Sys2Proof.Machine.execRemoveTag s
  | .readTag => Sys2Proof.Machine.execReadTag s
  | .listTags => Sys2Proof.Machine.execListTags s
  | .clearTags => Sys2Proof.Machine.execClearTags s
  | .setQueue => Sys2Proof.Machine.execSetQueue s
  | .readQueue => Sys2Proof.Machine.execReadQueue s
  | .setTime => Sys2Proof.Machine.execSetTime s
  | .armTime => Sys2Proof.Machine.execArmTime s
  | .cancelArm => Sys2Proof.Machine.execCancelArm s
  | .readTime => Sys2Proof.Machine.execReadTime s
  | .setPulseNotice => Sys2Proof.Machine.execSetPulseNotice s
  | .addSlot => Sys2Proof.Machine.execAddSlot s
  | .changeSlot => Sys2Proof.Machine.execChangeSlot s
  | .setValue => Sys2Proof.Machine.execSetValue s
  | .removeSlot => Sys2Proof.Machine.execRemoveSlot s
  | .readSlot => Sys2Proof.Machine.execReadSlot s
  | .send => Sys2Proof.Machine.execSend s
  | .startReports => Sys2Proof.Machine.execStartReports s
  | .stopReports => Sys2Proof.Machine.execStopReports s
  | .resync => Sys2Proof.Machine.execResync s
  | .subscribe => Sys2Proof.Machine.execSubscribe s
  | .unsubscribe => Sys2Proof.Machine.execUnsubscribe s
  | .flush => Sys2Proof.Machine.execFlush s
  | .holdRunOut stream => Sys2Proof.Machine.execHoldRunOut stream s
  | .reportFormation => Sys2Proof.Machine.execReportFormation s
  | .linkFrameStart => Sys2Proof.Machine.execLinkFrameStart s
  | .linkFrameComplete => Sys2Proof.Machine.execLinkFrameComplete s
  | .retransmitTimeout => Sys2Proof.Machine.execRetransmitTimeout s

end Sys2Proof.Machine
end

