-- ==== Sys2Proof/Safety.lean ====
section
/-! DEFINITION. What claims about the part are stated with: running a list of commands, the host link after a reply,
when the executor can take a request, and the invariants that every command keeps. -/

namespace Sys2Proof.Machine

/-! ### Runs and requests -/

/-- Commands carried out one after another, ending at the first that does not answer a next state. -/
def runCommands : List Instr → State → Host.Outcome State Fault Refusal
  | [], s => .next s
  | c :: rest, s =>
    match exec c s with
    | .next t => runCommands rest t
    | .fault reason => .fault reason
    | .refused reason => .refused reason

/-- The executor can take the request `r` now (R148): the part is not held in reset, no request is in execution, `r`
is the oldest waiting request, and the reply list holds fewer than 8. -/
structure State.Offers (s : State) (r : Request) (rest : List Request) : Prop where
  running : s.held = false
  free : s.link.executing = none
  waiting : s.link.requests = r :: rest
  room : s.link.replies.length < 8

/-- The same for a request of the Tag Table, which waits while the Tag Table works (R33) and behind an expiry that
waited for it (R46). -/
structure State.OffersTag (s : State) (r : Request) (rest : List Request) : Prop extends State.Offers s r rest where
  idle : s.busy = none
  current : s.expiryWaits = false

/-- The reply to a request: its SEQ, the request kind byte, the status, the results (R143, R172). -/
def replyTo (r : Request) (status : Status) (results : List Byte) : Reply :=
  { seq := r.seq, payload := r.payload.headD 0 :: statusByte status :: results }

/-- The host link after the oldest waiting request was answered: the request has left the queue, the executor is free,
and the reply stands at the back of the reply list and of the cache, which keeps the latest 4 (R145, R148). -/
def HostLink.replied (l : HostLink) (r : Request) (status : Status) (results : List Byte) : HostLink :=
  { l with
    requests := l.requests.tail
    executing := none
    replies := l.replies ++ [replyTo r status results]
    cache := (l.cache ++ [replyTo r status results]).drop (l.cache.length - 3) }

/-- The rows that carry out requests: those of Table 11-3, and UNKNOWN_REQUEST (R148). -/
def IsRequestRow (c : Instr) : Prop := c = .unknownRequest ∨ ∃ row ∈ requestTable, row.command = c

/-- The Tag Table can take the head of the intake (R18, R33, R46). -/
structure State.Takes (s : State) (item : Item) (rest : List Item) : Prop where
  running : s.held = false
  idle : s.busy = none
  current : s.expiryWaits = false
  unclaimed : s.tagRequestWaits = false
  head : s.intake = item :: rest

/-- R94: slot settings that ADD_SLOT and CHANGE_SLOT accept and that their fields can carry. -/
structure SlotSettings.InRange (t : SlotSettings) : Prop where
  period : 5 ≤ t.period ∧ t.period ≤ 65535
  phase : t.phase < t.period
  limit : ∀ k ∈ t.limit, 1 ≤ k ∧ k ≤ 65535

/-- R21: entry settings whose fields are in range, before the conditions between fields. -/
structure EntrySettings.InRange (t : EntrySettings) : Prop where
  deadline : ∀ ms ∈ t.deadline, 1 ≤ ms ∧ ms ≤ 60000
  minInterval : ∀ ms ∈ t.minInterval, 1 ≤ ms ∧ ms ≤ 60000

/-- R21: an ANY entry has neither a deadline nor a min interval, and on change requires keep latest. -/
def EntrySettings.Allowed (t : EntrySettings) (key : Key) : Prop :=
  (key.line = .any → t.deadline = none ∧ t.minInterval = none) ∧ (t.onChange = true → t.keepLatest = true)

/-! ### Notices that a happening queues -/

/-- R155: what the notice queue and its pending loss are in `t` after notices were queued, in this order, from `s`, where
at most 64 were held: the first 64 are held, and the others are counted as lost, up to 65,535. -/
structure State.Noticed (s t : State) (news : List Notice) : Prop where
  kept : t.reports.notices = (s.reports.notices ++ news).take 64
  lost : t.reports.noticeLoss = min 65535 (s.reports.noticeLoss + ((s.reports.notices ++ news).length - 64))

/-- R73: the QUEUE_FULL notice of a record with a stamp that is offered to a queue: one where the record fills the queue
and its full notice is armed, else none. -/
def State.fullNotice (s : State) (stamp : Stamp) (n : QueueNo) : List Notice :=
  if (s.queue n).records.length + 1 = (s.queue n).depth ∧ (s.queue n).armed = true then
    [{ body := .queueFull (s.queue n).depth, line := some n, tag := 0, stamp }]
  else []

/-! ### Fields of requests, with their default encodings (R173) -/

/-- R173: a byte carries the value of a field of the list: it is the value's code, or FFh where the value is the
field's default. -/
def Carries {α : Type} (code : α → Byte) (default value : α) (byte : Byte) : Prop :=
  byte = code value ∨ byte = 0xFF ∧ value = default

/-- R173: a two-byte field carries a deadline or a min interval: its ms, or FFFFh or 0 where it is absent. That 0 stands
for absent is read from R173 against R21 (notes/assumptions/12.md). -/
def CarriesMs (value : Option Nat) (field : Nat) : Prop :=
  match value with
  | some ms => field = ms
  | none => field = 0 ∨ field = 65535

/-- The byte of a route: bit 0 LINE, bit 1 MERGED (R173). -/
def routeByte (route : Bool × Bool) : Byte := BitVec.ofNat 8 (route.1.toNat + 2 * route.2.toNat)

/-- R21, R173, section 11.2: ten bytes that carry entry settings in range, defaults included. -/
def EntrySettings.Encoded (t : EntrySettings) (bytes : List Byte) : Prop :=
  t.InRange ∧ ∃ (route keepLatest onChange notify earlyAction notifyEarly : Byte) (deadline minInterval : Nat),
    bytes = [route, keepLatest, onChange, notify] ++ bigEndian 2 deadline ++ bigEndian 2 minInterval ++
      [earlyAction, notifyEarly] ∧
    Carries routeByte (true, false) (t.routeLine, t.routeMerged) route ∧
    Carries yesNoByte false t.keepLatest keepLatest ∧ Carries yesNoByte false t.onChange onChange ∧
    Carries notifyByte .none t.notify notify ∧ CarriesMs t.deadline deadline ∧ CarriesMs t.minInterval minInterval ∧
    Carries earlyActionByte .keep t.earlyAction earlyAction ∧ Carries yesNoByte false t.notifyEarly notifyEarly

/-- R94, R173, section 11.2: fifteen bytes that carry slot settings in range, defaults included. The limit, tag, value
and period have no default. -/
def SlotSettings.Encoded (t : SlotSettings) (bytes : List Byte) : Prop :=
  t.InRange ∧ ∃ (mode enabled notifyMiss notifyDone : Byte) (phase : Nat),
    bytes = bigEndian 2 t.tag.toNat ++ bigEndian 3 t.value.toNat ++ bigEndian 2 t.period ++ bigEndian 2 phase ++
      [mode] ++ bigEndian 2 (t.limit.getD 0) ++ [enabled, notifyMiss, notifyDone] ∧
    (phase = t.phase ∨ phase = 65535 ∧ t.phase = 0) ∧ Carries slotModeByte .always t.mode mode ∧
    Carries yesNoByte true t.enabled enabled ∧ Carries yesNoByte false t.notifyMiss notifyMiss ∧
    Carries yesNoByte false t.notifyDone notifyDone

/-- Table 8-2, R126, R173, section 11.2: eight bytes that carry a line configuration in range, defaults included. -/
def LineConfig.Encoded (c : LineConfig) (bytes : List Byte) : Prop :=
  (1 ≤ c.echoThreshold ∧ c.echoThreshold ≤ 15) ∧
  ∃ role rate captureErrors errorNotice missRoute policy echoThreshold keepEcho : Byte,
    bytes = [role, rate, captureErrors, errorNotice, missRoute, policy, echoThreshold, keepEcho] ∧
    Carries roleByte .off c.role role ∧ Carries rateByte .k50 c.rate rate ∧
    Carries yesNoByte false c.captureErrors captureErrors ∧ Carries yesNoByte false c.errorNotice errorNotice ∧
    Carries missRouteByte .none c.missRoute missRoute ∧ Carries policyByte .planFirst c.policy policy ∧
    Carries (BitVec.ofNat 8) 3 c.echoThreshold echoThreshold ∧ Carries yesNoByte false c.keepEcho keepEcho

/-! ### The end of a word, and its judgement on an ECHO line -/

/-- R8: the kind and the positions of the outcome of a word that ends in a receiver state. -/
def Receiver.EndsAs (receiver : Receiver) (kind : OutcomeKind) (bits : LineBits) : Prop :=
  (receiver = .inWord 40 bits ∧ lineCheck bits = checkOf (lineTag bits) (lineValue bits) ∧ kind = .word) ∨
  (receiver = .inWord 40 bits ∧ lineCheck bits ≠ checkOf (lineTag bits) (lineValue bits) ∧ kind = .error .check 40) ∨
  (∃ count, receiver = .inWord count bits ∧ count ≠ 40 ∧ kind = .error .length (min count 63)) ∨
  (∃ count, receiver = .discarding count bits ∧ kind = .error .code (min count 63))

/-- R117: the judgement of an outcome against the word sent. -/
def JudgedAs (sent : LineBits) (kind : OutcomeKind) (bits : LineBits) (judgement : Judgement) : Prop :=
  (kind = .word ∧ bits = sent ∧ judgement = .matched) ∨ (kind = .word ∧ bits ≠ sent ∧ judgement = .different) ∨
  (∃ error count, kind = .error error count ∧ judgement = .error error)

/-- R116, R117, R118: in state `s` the command brings the judgement of a word of line `n`, with its stamp, and finds the
port as `p`: the missing time is reached; a read-back ends when SENDING has ended; or SENDING ends over a read-back that
was held. -/
inductive State.Judges (s : State) (n : LineNo) : Instr → LineBits → Judgement → Stamp → Port → Prop where
  | missing (word : LineBits) (moment : Nat) (waits : (s.port n).comparator = .waiting word (some moment))
      (reached : moment ≤ s.time.runClock) :
      State.Judges s n (.missingTimeReached n) word .missing ⟨s.time.lineTime, s.time.epoch⟩ (s.port n)
  | readBack (word bits : LineBits) (missing : Option Nat) (kind : OutcomeKind) (judgement : Judgement)
      (role : (s.port n).config.role = .echo) (ended : (s.port n).receiver.EndsAs kind bits)
      (waits : (s.port n).comparator = .waiting word missing)
      (sent : ∀ other ends, (s.port n).transmitter ≠ .sending other ends)
      (judged : JudgedAs word kind bits judgement) :
      State.Judges s n (.endOfWord n) word judgement ⟨s.time.lineTime, s.time.epoch⟩
        { s.port n with pair := none, receiver := .idle false }
  | held (word other : LineBits) (outcome : ReceiverOutcome) (ends : Nat) (judgement : Judgement)
      (sending : (s.port n).transmitter = .sending other ends) (reached : ends ≤ s.time.runClock)
      (holds : (s.port n).comparator = .held word outcome)
      (judged : JudgedAs word outcome.kind outcome.bits judgement) :
      State.Judges s n (.endOfSending n) word judgement outcome.stamp
        { s.port n with
          transmitter := .spacing other (ends + 8 * bitTime (s.port n).config.rate)
          counters := { (s.port n).counters with wordsSent := (s.port n).counters.wordsSent + 1 } }

/-! ### Invariants -/

/-- R58, R68, R71, R72 for one queue: held plus acknowledged plus lost is offered, as the counters wrap; held is at most
the depth, in flight at most held, and the pending loss fits its 32 bits. -/
structure CaptureQueue.Sound (q : CaptureQueue) : Prop where
  accounted : q.offered = BitVec.ofNat 32 q.records.length + q.acknowledged + q.lostTotal
  fits : q.records.length ≤ q.depth
  run : q.inFlight ≤ q.records.length
  loss : q.pendingLoss ≤ 4294967295

/-- R156, R158 for one stream and its queue: batch and hold in range, a flush pending only where subscribed, and a hold
start exactly while there is news. -/
structure StreamState.Sound (t : StreamState) (q : CaptureQueue) : Prop where
  batch : 1 ≤ t.batch ∧ t.batch ≤ 12
  hold : t.hold ≤ 1000
  flush : t.flushPending = true → t.subscribed = true
  news : t.holdStart.isSome = q.hasNews

/-- R57, R58, R71, R156: every queue and its stream, the pool, and the depth of the merged queue. -/
structure State.QueuesSound (s : State) : Prop where
  queues : ∀ n, (s.queue n).Sound
  streams : ∀ n, (s.stream n).Sound (s.queue n)
  pool : ((List.finRange 12).map fun m => (s.queue (lineQueue m)).depth).sum ≤ 8192
  merged : (s.queue mergedQueue).depth = 4096

/-- The capacities of Table 0-5 that lists of the state keep (the depths of the queues and the pool are in
State.QueuesSound, and a frame's largest payload is a matter of the frame receiver): intake items, Tag Table entries, plan
slots, which have different indices, send queue words, notices, reports in the window and records or notices in each,
waiting requests, cached and listed replies. With them, the range of a batch, the range of the notice pending loss, and
the reply list's place for the executor (R93, R144, R145, R148, R155, R158, R161). -/
structure State.Bounded (s : State) : Prop where
  intake : s.intake.length ≤ 16
  tags : s.tags.length ≤ 640
  slots : s.plan.length ≤ 384 ∧ (s.plan.map Slot.index).Nodup
  sendQueues : ∀ n, (s.port n).sendQueue.length ≤ 32
  notices : s.reports.notices.length ≤ 64
  noticeLoss : s.reports.noticeLoss ≤ 65535
  window : s.reports.window.length ≤ 8
  batches : ∀ n, (s.stream n).batch ≤ 12
  contents : ∀ report ∈ s.reports.window,
    match report.body with
    | .notices list _ => list.length ≤ 12
    | .data _ count _ => count ≤ 12
  requests : s.link.requests.length ≤ 4
  cache : s.link.cache.length ≤ 4
  replies : s.link.replies.length ≤ 8
  place : ∀ e ∈ s.link.executing, e.hold = .atTagTable ∨ (∃ n, e.hold = .stop n) → s.link.replies.length ≤ 7

/-- R5, R115, R125, R131, R121 for one line: the state fits the role, and the receiver, the transmitter, the comparator
and a running stop are there exactly in the states that use them. -/
structure Port.Sound (p : Port) : Prop where
  off : p.state = .off ↔ p.config.role = .off
  stopping : p.state = .stopping → p.config.role = .transmit ∨ p.config.role = .echo
  fault : p.state = .fault → p.config.role = .echo
  stop : p.stop.isSome = true ↔ p.state = .stopping
  receiver : p.receiver = .dormant ↔ p.receiverActive = false
  transmitter : p.transmitter = .dormant ↔ p.driverActive = false
  comparator : p.comparator = .inactive ↔ (p.receiverActive && p.config.role == .echo) = false

/-- Every line is sound. -/
def State.LinesSound (s : State) : Prop := ∀ n, (s.port n).Sound

/-- R94, R95, R96, R98 for one slot of a state: settings in range, a remaining exactly where there is a limit, and a
next due or a pending instance only while the slot can come due. -/
structure Slot.Sound (s : State) (slot : Slot) : Prop where
  period : 5 ≤ slot.settings.period ∧ slot.settings.period ≤ 65535
  phase : slot.settings.phase < slot.settings.period
  limit : slot.remaining.isSome = slot.settings.limit.isSome
  due : slot.nextDue.isSome = true → s.canComeDue slot.line slot.settings = true
  pending : slot.pending.isSome = true → s.canComeDue slot.line slot.settings = true

/-- R93: every slot is sound, and the plan holds at most one slot of an index, in index order. -/
structure State.PlanSound (s : State) : Prop where
  slots : ∀ slot ∈ s.plan, slot.Sound s
  order : s.plan.Pairwise fun a b => a.index < b.index

/-- R21, R28, R41 for one entry. -/
structure Entry.Sound (e : Entry) : Prop where
  deadline : ∀ ms ∈ e.settings.deadline, 1 ≤ ms ∧ ms ≤ 60000
  minInterval : ∀ ms ∈ e.settings.minInterval, 1 ≤ ms ∧ ms ≤ 60000
  any : e.key.line = .any → e.settings.deadline = none ∧ e.settings.minInterval = none
  onChange : e.settings.onChange = true → e.settings.keepLatest = true
  latest : e.latest.isSome = true → e.settings.keepLatest = true
  freshness : e.freshness = .none ↔ e.settings.deadline = none

/-- Whether an entry is monitored: UNSEEN, FRESH or STALE (R41). -/
def Freshness.isMonitored : Freshness → Bool
  | .unseen _ | .fresh _ | .stale _ => true
  | .none | .idle => false

/-- R43, R44: line changes that wait for the Tag Table take the monitoring of a line, as the entries have it, from
`before` to `now`: a start finds it off, a stop finds it on and turns it off. -/
def ChangesMonitoring (line : LineNo) (before : Bool) : List LineChange → Bool → Prop
  | [], now => before = now
  | .started other monitored _ :: rest, now =>
    if other = line then before = false ∧ ChangesMonitoring line monitored rest now
    else ChangesMonitoring line before rest now
  | .stopped other _ :: rest, now =>
    if other = line then before = true ∧ ChangesMonitoring line false rest now
    else ChangesMonitoring line before rest now

/-- R19, R20, R41: every entry is sound, and the table holds at most one entry of a key, in listing order. Line changes
wait only for the Tag Table's work (R43, R44); and an exact entry with a deadline is in UNSEEN, FRESH or STALE exactly
while its line is RUNNING with role RECEIVE, up to the line changes that wait. -/
structure State.TagsSound (s : State) : Prop where
  entries : ∀ e ∈ s.tags, e.Sound
  order : s.tags.Pairwise fun a b => a.key.rank < b.key.rank
  changes : s.busy = none → s.lineChanges = []
  monitored : ∀ line, ∃ before, ChangesMonitoring line before s.lineChanges
      (decide ((s.port line).config.role = .receive ∧ (s.port line).state = .running)) ∧
    ∀ e ∈ s.tags, e.key.line = .port line → e.settings.deadline ≠ none → e.freshness.isMonitored = before

/-- The sequence numbers a window of a length holds when `next` comes after them (R160). -/
def seqsBefore (next : Byte) (length : Nat) : List Byte :=
  (List.range length).map fun i => next - BitVec.ofNat 8 (length - i)

/-- The records of a queue that the window's data reports hold (R68). -/
def State.reportedOf (s : State) (n : QueueNo) : Nat := olderCount n s.reports.window

/-- R160, R163, R165, R166, R68: the window carries consecutive sequence numbers, a report is due and the timer runs
only while ACTIVE, the retry count stays at or below the limit, and the records in flight of a queue are those of the
window's data reports. -/
structure State.WindowSound (s : State) : Prop where
  seqs : s.reports.window.map Report.seq = seqsBefore s.reports.nextSeq s.reports.window.length
  due : s.reports.state ≠ .active → ∀ report ∈ s.reports.window, report.due = false
  timer : s.reports.timer.isSome = true → s.reports.state = .active ∧ s.reports.window ≠ []
  retries : s.reports.retries ≤ s.reports.retryLimit
  limit : 1 ≤ s.reports.retryLimit ∧ s.reports.retryLimit ≤ 8
  timeout : 10 ≤ s.reports.timeout ∧ s.reports.timeout ≤ 2000
  inFlight : ∀ n, (s.queue n).inFlight = s.reportedOf n

end Sys2Proof.Machine
end

