-- ==== Sys2Proof/Certificates/Slice0/Obligations.lean ====
section
/-! DEFINITION. The statements about the part. Each docstring names the rules or sections of spec/ that the statement
follows; a clause that states a choice of the model names its entry in notes/assumptions/. A statement that gives the
next state as an equation is also its command's frame: whatever the equation does not name is unchanged. -/

section Statements

open Sys2Proof Sys2Proof.Machine

/-! ### Steps, reset and power -/

/-- A step takes the command at the front of the queue and carries it out with the queue's rest. -/
def Obligations.StepRunsFrontCommand : Prop :=
  ∀ (c : Instr) (rest : List Instr) (s : State),
    step { s with pending := c :: rest } = exec c { s with pending := rest }

/-- The model's choice (notes/assumptions/3.md and 4.md): with no command waiting, a step carries out the first of the
part's own happenings that is due, or lets 1 µs pass (R80, R81); while RSTn is low it changes nothing. -/
def Obligations.EmptyQueueStep : Prop :=
  ∀ s : State, s.pending = [] →
    (∀ c, s.nextHappening = some c → step s = exec c s) ∧
    (s.nextHappening = none → s.held = false →
      step s = .next { s with time := { s.time with
        runClock := s.time.runClock + 1, lineTime := s.time.lineTime + 1 } }) ∧
    (s.held = true → step s = .next s)

/-- Every command answers a next state and leaves the queue of waiting commands alone; while RSTn is low every command
but POWER_ON and RSTN_LOW changes nothing (R137; notes/assumptions/20.md). -/
def Obligations.EveryCommandAnswers : Prop :=
  (∀ (c : Instr) (s : State), ∃ t, exec c s = .next t ∧ t.pending = s.pending) ∧
  (∀ (c : Instr) (s : State), s.held = true → c ≠ .rstnLow → (∀ lrate, c ≠ .powerOn lrate) → exec c s = .next s)

/-- R137, R23, R57, R79, R80, R93, R125, R154, R155, R164, Tables 0-3, 5-1, 8-2, 9-5, 10-3: the values after power-on.
At the release of RSTn every block takes them, and the link the rate its pins show; while RSTn is low every block is
held at them. That State.reset reads its rate from LRATE = 00, that the pairs are null, and that the rate stays until
the next sample are the model's choices (notes/assumptions/6.md, 7.md, 25.md). -/
def Obligations.PowerOn : Prop :=
  (let s := State.reset
   s.held = false ∧ s.resetCause = .power ∧
   s.time = { runClock := 0, lineTime := 0, epoch := 0, arm := none, lastEdge := none, edgesSince := 0,
              ignoredEdges := 0, pulseNotices := false } ∧
   (∀ n, (s.port n).state = .off ∧ (s.port n).t0 = none ∧ (s.port n).consecutive = 0 ∧ (s.port n).sendQueue = [] ∧
     (s.port n).config = { role := .off, rate := .k50, captureErrors := false, errorNotice := false,
                           missRoute := .none, policy := .planFirst, echoThreshold := 3, keepEcho := false } ∧
     (s.port n).counters = ⟨0, 0, 0, 0, 0, 0, 0, 0, 0, 0⟩ ∧ (s.port n).receiver = .dormant ∧
     (s.port n).transmitter = .dormant ∧ (s.port n).comparator = .inactive) ∧
   s.intake = [] ∧ s.busy = none ∧ s.tags = [] ∧ s.plan = [] ∧
   (∀ n, s.queue n = { depth := if n = mergedQueue then 4096 else 512, policy := .keepOld, records := [],
                       inFlight := 0, offered := 0, acknowledged := 0, lostTotal := 0, pendingLoss := 0,
                       armed := true }) ∧
   s.link.receiver = .hunt ∧ s.link.counters = ⟨0, 0, 0, 0, 0, 0, 0, 0⟩ ∧ s.link.requests = [] ∧
   s.link.executing = none ∧ s.link.cache = [] ∧ s.link.replies = [] ∧ s.link.transmitter = none ∧
   (∀ n, s.stream n = { subscribed := false, batch := 12, hold := 50, flushPending := false, holdStart := none }) ∧
   s.reports.notices = [] ∧ s.reports.noticeLoss = 0 ∧ s.reports.window = [] ∧ s.reports.nextSeq = 0 ∧
   s.reports.lastServed = 12 ∧ s.reports.state = .silent ∧ s.reports.timer = none ∧ s.reports.retries = 0 ∧
   s.reports.timeout = 200 ∧ s.reports.retryLimit = 3 ∧ s.reports.strays = 0) ∧
  (∀ (s : State) (lrate : BitVec 2),
     exec (.powerOn lrate) s = .next { State.reset with
       link := { rate := if lrate = 0 then .b115200 else if lrate = 1 then .b460800
                         else if lrate = 2 then .b921600 else .b3000000 }
       pending := s.pending } ∧
     exec .rstnLow s = .next { State.reset with
       held := true, link := { rate := s.link.rate }, pending := s.pending })

/-- R152, R23, R78, R114, R136, R170: RESET(TRAFFIC) clears the traffic state of the whole part in one happening, keeps
its configuration, the time base and the host link, and is answered OK; a scope other than 00h and 01h is refused with
RANGE. That the row RESET_TRAFFIC answers such a scope is the model's choice (notes/assumptions/13.md). What the line
pairs show afterwards is left open (notes/assumptions/7.md). -/
def Obligations.ResetTraffic : Prop :=
  ∀ (s : State) (r : Request) (rest : List Request), s.Offers r rest →
    (r.payload = [0x03, 0x01] →
      ∃ t, exec .resetTraffic s = .next t ∧
        t.held = s.held ∧ t.resetCause = s.resetCause ∧ t.time = s.time ∧ t.pending = s.pending ∧
        t.link = s.link.replied r .ok [] ∧
        t.intake = [] ∧ t.busy = none ∧ t.lineChanges = [] ∧
        (∀ n, ∃ pair, t.port n = { state := if (s.port n).state = .off then .off else .ready
                                   config := (s.port n).config, t0 := (s.port n).t0, pair }) ∧
        t.tags = s.tags.map (fun e =>
          { key := e.key, settings := e.settings
            freshness := if e.settings.deadline.isSome then .idle else .none }) ∧
        (∀ n, t.queue n = { depth := (s.queue n).depth, policy := (s.queue n).policy }) ∧
        t.plan = s.plan.map (fun slot => { slot with
          pending := none, nextDue := none, remaining := slot.settings.limit, sent := 0, misses := 0, skips := 0 }) ∧
        (∀ n, t.stream n = { s.stream n with flushPending := false, holdStart := none }) ∧
        t.reports = { s.reports with
          notices := [], noticeLoss := 0, streams := t.reports.streams, window := [], nextSeq := 0, lastServed := 12
          state := if s.reports.state = .stalled then .active else s.reports.state
          timer := none, retries := 0 }) ∧
    (∀ scope : Byte, scope ≠ 0 → scope ≠ 1 → r.payload = [0x03, scope] →
      exec .resetTraffic s = .next { s with link := s.link.replied r .range [] })

/-- R153, R137: RESET(FULL) is answered OK at once and held; the end of its own reply frame makes it due; when it takes
effect every block takes its power-on values but for the reset cause and the link rate. R153 says that it takes effect
at the moment the frame has been sent; that LINK_FRAME_COMPLETE only makes it due, and RESET_FULL_TAKES_EFFECT then
carries it out, is the model's reading (notes/assumptions/18.md). What the line pairs show afterwards is left open
(notes/assumptions/7.md). -/
def Obligations.ResetFull : Prop :=
  (∀ (s : State) (r : Request) (rest : List Request), s.Offers r rest → r.payload = [0x03, 0x00] →
    exec .resetFull s = .next { s with link := { s.link.replied r .ok [] with
      executing := some ⟨r, .resetReply⟩
      replies := s.link.replies ++ [{ replyTo r .ok [] with endsReset := true }] } }) ∧
  (∀ (s : State) (r : Request) (f : TransmitFrame), s.held = false → s.link.executing = some ⟨r, .resetReply⟩ →
    s.link.transmitter = some f → f.endsReset = true → s.frameSent f = true →
    exec .linkFrameComplete s = .next { s with link := { s.link with
      transmitter := none, executing := some ⟨r, .resetDue⟩ } }) ∧
  (∀ (s : State) (r : Request), s.held = false → s.link.executing = some ⟨r, .resetDue⟩ →
    ∃ t, exec .resetFullTakesEffect s = .next t ∧
      t = { State.reset with
        resetCause := .request, ports := t.ports, link := { rate := s.link.rate }, pending := s.pending } ∧
      (∀ n, ∃ pair, t.port n = { pair })) ∧
  (∀ s : State, s.held = false → s.link.executing = none → exec .resetFullTakesEffect s = .next s)

/-! ### The time base -/

/-- R89, R90, R91: an edge less than 500,000 µs after the last taken edge is ignored and counted; any other is taken,
and in FREE it loads nothing and queues a PULSE notice where these are on. -/
def Obligations.PulseEdgeInFree : Prop :=
  ∀ s : State, s.held = false →
    (∀ last, s.time.lastEdge = some last → s.time.runClock < last + 500000 →
      exec .pulseEdge s = .next { s with time := { s.time with
        ignoredEdges := s.time.ignoredEdges + 1, edgesSince := min 4294967295 (s.time.edgesSince + 1) } }) ∧
    ((∀ last, s.time.lastEdge = some last → last + 500000 ≤ s.time.runClock) → s.time.arm = none →
      exec .pulseEdge s = .next
        { (if s.time.pulseNotices then
             s.queueNotice { body := .pulse false s.time.edgesSince, line := none, tag := 0
                             stamp := ⟨s.time.lineTime, s.time.epoch⟩ }
           else s) with
          time := { s.time with lastEdge := some s.time.runClock, edgesSince := 0 } })

/-- R90, R83, R91, R73, R155: an edge taken in ARMED loads the arm value under the next epoch, returns the time base to
FREE and offers a TIME_ALIGNED MARK to every queue but the line queues of depth 0. Its notices are the QUEUE_FULL notices
of the MARKs in the order of the queues, TIME_ALIGNED with the whole milliseconds since the arm start, and PULSE where
these are on; those beyond 64 are lost to the notice pending loss. -/
def Obligations.PulseEdgeAligns : Prop :=
  ∀ (s : State) (arm : Arm), s.held = false → s.time.arm = some arm →
    (∀ last, s.time.lastEdge = some last → last + 500000 ≤ s.time.runClock) →
    let stamp : Stamp := ⟨arm.value, s.time.epoch + 1⟩
    ∃ t, exec .pulseEdge s = .next t ∧
      t = { s with
        time := t.time
        queues := t.queues
        reports := { s.reports with
          notices := t.reports.notices, noticeLoss := t.reports.noticeLoss, streams := t.reports.streams } } ∧
      t.time = { s.time with
        lineTime := arm.value, epoch := s.time.epoch + 1, arm := none, lastEdge := some s.time.runClock
        edgesSince := 0 } ∧
      (∀ n, if n ≠ mergedQueue ∧ (s.queue n).depth = 0 then t.queue n = s.queue n ∧ t.stream n = s.stream n
        else
          t.queue n = (s.queue n).offer { body := .mark .timeAligned, line := n, bits := 0, stamp } ∧
          t.stream n = { s.stream n with holdStart :=
            if (t.queue n).hasNews then some ((s.stream n).holdStart.getD s.time.runClock) else none }) ∧
      (s.reports.notices.length ≤ 64 → s.reports.noticeLoss ≤ 65535 →
        s.Noticed t (((List.finRange 13).map (s.fullNotice stamp)).flatten ++
          { body := .timeAligned ((s.time.runClock - arm.start) / 1000), line := none, tag := 0, stamp } ::
          if s.time.pulseNotices then
            [{ body := .pulse true s.time.edgesSince, line := none, tag := 0, stamp }]
          else []))

/-- R86, R88, R91: ARM_TIME arms the value for a window of whole milliseconds and answers the arm expiry; the expiry
returns the time base to FREE with an ARM_EXPIRED notice and does not come early; SET_PULSE_NOTICE sets its switch. A
value out of range is refused with RANGE. -/
def Obligations.ArmWindowAndSwitch : Prop :=
  (∀ (s : State) (r : Request) (rest : List Request) (value window : Nat), s.Offers r rest →
    value < 2 ^ 64 → window < 2 ^ 16 → r.payload = 0x41 :: (bigEndian 8 value ++ bigEndian 2 window) →
    exec .armTime s = .next (
      if value ≤ 9223372036854775807 ∧ 1 ≤ window ∧ window ≤ 10000 then
        { s with
          time := { s.time with
            arm := some { value, start := s.time.runClock, expiry := s.time.runClock + window * 1000 } }
          link := s.link.replied r .ok (bigEndian 8 (s.time.runClock + window * 1000)) }
      else { s with link := s.link.replied r .range [] })) ∧
  (∀ (s : State) (arm : Arm), s.held = false → s.time.arm = some arm →
    exec .armWindowExpiry s = .next (
      if arm.expiry ≤ s.time.runClock then
        { s with time := { s.time with arm := none } }.queueNotice
          { body := .armExpired ((arm.expiry - arm.start) / 1000), line := none, tag := 0
            stamp := ⟨s.time.lineTime, s.time.epoch⟩ }
      else s)) ∧
  (∀ s : State, s.time.arm = none → exec .armWindowExpiry s = .next s) ∧
  (∀ (s : State) (r : Request) (rest : List Request) (switch : Byte), s.Offers r rest →
    r.payload = [0x44, switch] →
    exec .setPulseNotice s = .next (
      if switch = 0 ∨ switch = 1 then
        { s with time := { s.time with pulseNotices := switch == 1 }, link := s.link.replied r .ok [] }
      else { s with link := s.link.replied r .range [] }))

/-- R85, R83, R73, R155: SET_TIME loads line time under the next epoch, offers a TIME_SET MARK to every queue but the
line queues of depth 0, with the QUEUE_FULL notices these raise, and answers the line time before the load, the new epoch
and the run clock; it leaves the arm, the PULSE state and everything else as they were. -/
def Obligations.SetTime : Prop :=
  ∀ (s : State) (r : Request) (rest : List Request) (value : Nat), s.Offers r rest → value < 2 ^ 64 →
    r.payload = 0x40 :: bigEndian 8 value →
    (value ≤ 9223372036854775807 →
      let stamp : Stamp := ⟨value, s.time.epoch + 1⟩
      ∃ t, exec .setTime s = .next t ∧
        t = { s with
          time := { s.time with lineTime := value, epoch := s.time.epoch + 1 }
          queues := t.queues
          reports := { s.reports with
            notices := t.reports.notices, noticeLoss := t.reports.noticeLoss, streams := t.reports.streams }
          link := s.link.replied r .ok
            (bigEndian 8 s.time.lineTime ++ [s.time.epoch + 1] ++ bigEndian 8 s.time.runClock) } ∧
        (∀ n, if n ≠ mergedQueue ∧ (s.queue n).depth = 0 then t.queue n = s.queue n ∧ t.stream n = s.stream n
          else
            t.queue n = (s.queue n).offer { body := .mark .timeSet, line := n, bits := 0, stamp } ∧
            t.stream n = { s.stream n with holdStart :=
              if (t.queue n).hasNews then some ((s.stream n).holdStart.getD s.time.runClock) else none }) ∧
        (s.reports.notices.length ≤ 64 → s.reports.noticeLoss ≤ 65535 →
          s.Noticed t ((List.finRange 13).map (s.fullNotice stamp)).flatten)) ∧
    (9223372036854775807 < value → exec .setTime s = .next { s with link := s.link.replied r .range [] })

/-- R87. CANCEL_ARM returns the time base to FREE without a notice and says whether an arm was cancelled; a PULSE edge
taken after it loads nothing. -/
def Obligations.CancelArm : Prop :=
  ∀ (s : State) (r : Request) (rest : List Request), s.Offers r rest → r.payload = [0x42] →
    exec .cancelArm s = .next { s with
      time := { s.time with arm := none }
      link := s.link.replied r .ok [if s.time.arm.isSome then 1 else 0] } ∧
    ∀ t u, exec .cancelArm s = .next t → exec .pulseEdge t = .next u →
      u.time.lineTime = t.time.lineTime ∧ u.time.epoch = t.time.epoch ∧ u.queues = t.queues

/-- R92. READ_TIME answers the time base as it stands, and changes nothing else. -/
def Obligations.ReadTime : Prop :=
  ∀ (s : State) (r : Request) (rest : List Request), s.Offers r rest → r.payload = [0x43] →
    ∃ value window : Nat,
      exec .readTime s = .next { s with
        link := s.link.replied r .ok
          (bigEndian 8 s.time.runClock ++ bigEndian 8 s.time.lineTime ++ [s.time.epoch] ++
         [if s.time.arm.isSome then 1 else 0] ++ bigEndian 8 value ++ bigEndian 2 window ++
         [if s.time.lastEdge.isSome then 1 else 0] ++ bigEndian 8 (s.time.lastEdge.getD 0) ++
         bigEndian 4 s.time.edgesSince ++ bigEndian 4 s.time.ignoredEdges.toNat ++
         [if s.time.pulseNotices then 1 else 0]) } ∧
      (s.time.arm = none → value = 0 ∧ window = 0) ∧
      (∀ arm, s.time.arm = some arm → value = arm.value ∧
        (arm.expiry ≤ s.time.runClock → window = 0) ∧
        (s.time.runClock < arm.expiry →
          1000 * (window - 1) < arm.expiry - s.time.runClock ∧ arm.expiry - s.time.runClock ≤ 1000 * window ∧
          (arm.expiry ≤ s.time.runClock + 10000000 → 1 ≤ window ∧ window ≤ 10000)))

/-! ### The receiver and the arrival intake -/

/-- R6, R7, R3, R1: the receiver's states under FIRST_EDGE, BIT_DECODED, CODING_VIOLATION and MISSED_WORD_ENDED; the bit
with number `count + 1` lands in its own position, and only there, and past 40 none is kept. What the pair shows besides
is tracked from the commands (notes/assumptions/7.md). -/
def Obligations.ReceiverStates : Prop :=
  ∀ (s : State) (n : LineNo), s.held = false →
    (∀ sense, exec (.firstEdge n sense) s = .next (s.withPort n { s.port n with
      pair := some sense
      receiver := if (s.port n).receiver = .idle false then .inWord 0 0 else (s.port n).receiver })) ∧
    (∀ (count : Nat) (bits : LineBits) (first second : Polarity), (s.port n).receiver = .inWord count bits →
      exec (.bitDecoded n first second) s = .next (s.withPort n { s.port n with
        pair := (s.port n).pair.map fun _ => second
        receiver :=
          if first = second then .discarding count bits
          else .inWord (count + 1) (placeBit count (first == .positive) bits) })) ∧
    (∀ (first second : Polarity), (∀ count bits, (s.port n).receiver ≠ .inWord count bits) →
      exec (.bitDecoded n first second) s = .next (s.withPort n { s.port n with
        pair := (s.port n).pair.map fun _ => second })) ∧
    (∀ count bits, (s.port n).receiver = .inWord count bits →
      exec (.codingViolation n) s = .next (s.withPort n { s.port n with receiver := .discarding count bits })) ∧
    (∀ missed, (s.port n).receiver = .idle missed →
      exec (.missedWordEnded n) s = .next (s.withPort n { s.port n with pair := none, receiver := .idle false })) ∧
    (∀ (count : Nat) (bit : Bool) (bits : LineBits) (k : Nat), k < 40 → bits.getMsbD count = false →
      (placeBit count bit bits).getMsbD k = if k = count then bit else bits.getMsbD k)

/-- R1, R2, R3, R7, R8, R9, R16, R84: on a RECEIVE line, a word whose check agrees, sent in the coding of R3 from its
first edge on, is received whole: it is counted and enters an intake with room, stamped at its end, whatever the word. It
enters at the tail, but before the items of higher ports that were stamped in the same microsecond and epoch, whose
commands came earlier (notes/assumptions/27.md). The pair's condition is tracked from the commands
(notes/assumptions/7.md). -/
def Obligations.WordReceived : Prop :=
  ∀ (s : State) (n : LineNo) (sense : Polarity) (bits : LineBits) (earlier later : List Item), s.held = false →
    (s.port n).receiver = .idle false → (s.port n).config.role = .receive →
    lineCheck bits = checkOf (lineTag bits) (lineValue bits) → s.intake = earlier ++ later → s.intake.length < 16 →
    (∀ other ∈ earlier, other.offeredAt = s.time.runClock → other.line ≤ n ∨ other.stamp.epoch ≠ s.time.epoch) →
    (∀ other ∈ later, other.offeredAt = s.time.runClock ∧ n < other.line ∧ other.stamp.epoch = s.time.epoch) →
    runCommands
        (.firstEdge n sense :: (wordHalfBits bits).map (fun h => .bitDecoded n h.1 h.2) ++ [.endOfWord n]) s =
      .next { s.withPort n { s.port n with
          pair := none
          counters := { (s.port n).counters with wordsReceived := (s.port n).counters.wordsReceived + 1 } } with
        intake := earlier ++ { kind := .word, line := n, bits, stamp := ⟨s.time.lineTime, s.time.epoch⟩
                               offeredAt := s.time.runClock } :: later }

/-- R8, R9, R10, R11: a damaged word on a RECEIVE line is counted by kind, queues a LINE_ERROR notice where the switch
is on, and under CAPTURE is offered to the intake. R16, R84: an item offered to an intake with room enters at the tail,
but before the items offered in the same microsecond that were stamped after a later load, or since the same load on a
higher port. That the port decides also where one of them is an echo capture that was held, with an older stamp, is the
model's choice (notes/assumptions/27.md). R17: where the intake holds 16 items, the last of the 17 in that order is
refused and counted as an overrun of its line, whatever its kind, and a good word whose item is offered then is still
counted as received; that the refused item can be one already held, and that its LINE_START MARKs are then placed anew,
is the model's choice too (notes/assumptions/27.md). -/
def Obligations.DamagedAndRefusedWords : Prop :=
  (∀ (s : State) (n : LineNo) (count : Nat) (bits : LineBits) (kind : ErrorKind) (recorded : Nat), s.held = false →
    (s.port n).config.role = .receive →
    ((s.port n).receiver = .inWord count bits ∧ count ≠ 40 ∧ kind = .length ∧ recorded = min count 63 ∨
     (s.port n).receiver = .inWord 40 bits ∧ lineCheck bits ≠ checkOf (lineTag bits) (lineValue bits) ∧
       kind = .check ∧ recorded = 40 ∨
     (s.port n).receiver = .discarding count bits ∧ kind = .code ∧ recorded = min count 63) →
    exec (.endOfWord n) s = .next (
      let stamp : Stamp := ⟨s.time.lineTime, s.time.epoch⟩
      let counted := s.withPort n { s.port n with
        pair := none
        receiver := .idle false
        counters :=
          match kind with
          | .check => { (s.port n).counters with checkErrors := (s.port n).counters.checkErrors + 1 }
          | .length => { (s.port n).counters with lengthErrors := (s.port n).counters.lengthErrors + 1 }
          | .code => { (s.port n).counters with codeErrors := (s.port n).counters.codeErrors + 1 } }
      let noticed :=
        if (s.port n).config.errorNotice then
          counted.queueNotice
            { body := .lineError kind recorded, line := some n.castSucc, tag := lineTag bits, stamp }
        else counted
      if (s.port n).config.captureErrors then
        noticed.offerItem
          { kind := .errorWord kind recorded, line := n, bits, stamp, offeredAt := s.time.runClock }
      else noticed)) ∧
  (∀ (s : State) (item : Item) (earlier later : List Item), s.intake = earlier ++ later → s.intake.length < 16 →
    let after := fun other : Item => other.offeredAt = item.offeredAt ∧
      ((s.time.epoch - other.stamp.epoch).toNat < (s.time.epoch - item.stamp.epoch).toNat ∨
        other.stamp.epoch = item.stamp.epoch ∧ item.line < other.line)
    (∀ other ∈ earlier, ¬ after other) → (∀ other ∈ later, after other) →
    s.offerItem item = { s with intake := earlier ++ item :: later }) ∧
  (∀ (s : State) (item refused : Item) (earlier later kept : List Item), s.intake = earlier ++ later →
    s.intake.length = 16 →
    let after := fun other : Item => other.offeredAt = item.offeredAt ∧
      ((s.time.epoch - other.stamp.epoch).toNat < (s.time.epoch - item.stamp.epoch).toNat ∨
        other.stamp.epoch = item.stamp.epoch ∧ item.line < other.line)
    (∀ other ∈ earlier, ¬ after other) → (∀ other ∈ later, after other) →
    earlier ++ item :: later = kept ++ [refused] →
    s.offerItem item = ({ s with intake := kept }.withPort refused.line { s.port refused.line with
        counters := { (s.port refused.line).counters with
          intakeOverruns := (s.port refused.line).counters.intakeOverruns + 1 } }).placeStartMarks
      refused.line refused.marks) ∧
  (∀ (s : State) (n : LineNo) (bits : LineBits) (earlier later : List Item), s.held = false →
    (s.port n).receiver = .inWord 40 bits → (s.port n).config.role = .receive →
    lineCheck bits = checkOf (lineTag bits) (lineValue bits) → s.intake = earlier ++ later → s.intake.length = 16 →
    (∀ other ∈ earlier, other.offeredAt = s.time.runClock → other.line ≤ n ∨ other.stamp.epoch ≠ s.time.epoch) →
    (∀ other ∈ later, other.offeredAt = s.time.runClock ∧ n < other.line ∧ other.stamp.epoch = s.time.epoch) →
    let received := { (s.port n).counters with wordsReceived := (s.port n).counters.wordsReceived + 1 }
    (later = [] →
      exec (.endOfWord n) s = .next (s.withPort n { s.port n with
        pair := none
        receiver := .idle false
        counters := { received with intakeOverruns := (s.port n).counters.intakeOverruns + 1 } })) ∧
    (∀ before refused, later = before ++ [refused] →
      let entered : State := { s.withPort n { s.port n with
          pair := none, receiver := .idle false, counters := received } with
        intake := earlier ++ { kind := .word, line := n, bits, stamp := ⟨s.time.lineTime, s.time.epoch⟩
                               offeredAt := s.time.runClock } :: before }
      exec (.endOfWord n) s = .next ((entered.withPort refused.line { s.port refused.line with
          counters := { (s.port refused.line).counters with
            intakeOverruns := (s.port refused.line).counters.intakeOverruns + 1 } }).placeStartMarks
        refused.line refused.marks)))

/-! ### The echo comparator -/

/-- R12, R116: a word, good or damaged, that ends on an ECHO line is a foreign word where the comparator does not wait,
and is held while the word it answers is still being sent. R117, R119: judged a MATCH, as a read-back after SENDING or
as the one that was held when SENDING ends, it sets the consecutive count to 0 and, with keep echo on, a capture is
offered. -/
def Obligations.EchoOutcome : Prop :=
  (∀ (s : State) (n : LineNo) (kind : OutcomeKind) (bits : LineBits), s.held = false →
    (s.port n).config.role = .echo → (s.port n).receiver.EndsAs kind bits →
    ((s.port n).comparator = .clear ∨ (∃ word o, (s.port n).comparator = .held word o) →
      exec (.endOfWord n) s = .next (s.withPort n { s.port n with
        pair := none
        receiver := .idle false
        counters := { (s.port n).counters with foreignWords := (s.port n).counters.foreignWords + 1 } })) ∧
    (∀ word missing sent ends, (s.port n).comparator = .waiting word missing →
      (s.port n).transmitter = .sending sent ends →
      exec (.endOfWord n) s = .next (s.withPort n { s.port n with
        pair := none
        receiver := .idle false
        comparator := .held word { kind, bits, stamp := ⟨s.time.lineTime, s.time.epoch⟩ } }))) ∧
  (∀ (s : State) (n : LineNo) (command : Instr) (word : LineBits) (stamp : Stamp) (p : Port), s.held = false →
    s.Judges n command word .matched stamp p →
    exec command s = .next (
      let judged := s.withPort n { p with comparator := .clear, consecutive := 0 }
      if (s.port n).config.keepEcho then
        judged.offerItem { kind := .echo, line := n, bits := word, stamp, offeredAt := s.time.runClock }
      else judged))

/-- R117, R118, R120: a read-back that differs or is damaged, whether it ends after SENDING or was held until SENDING
ends, and one whose missing time is reached, are mismatches: below the echo threshold the counts rise by one and an
ECHO_MISMATCH notice with the judgement is queued. The missing time does not come early, nor to a comparator that does
not wait. -/
def Obligations.EchoMismatch : Prop :=
  (∀ (s : State) (n : LineNo) (command : Instr) (word : LineBits) (judgement : Judgement) (stamp : Stamp) (p : Port),
    s.held = false → s.Judges n command word judgement stamp p → judgement ≠ .matched →
    (s.port n).consecutive + 1 < (s.port n).config.echoThreshold →
    exec command s = .next ((s.withPort n { p with
        comparator := .clear
        consecutive := (s.port n).consecutive + 1
        counters := { p.counters with echoMismatches := p.counters.echoMismatches + 1 } }).queueNotice
      { body := .echoMismatch judgement ((s.port n).consecutive + 1), line := some n.castSucc
        tag := lineTag word, stamp })) ∧
  (∀ (s : State) (n : LineNo), s.held = false →
    (∀ word moment, (s.port n).comparator = .waiting word (some moment) → s.time.runClock < moment) →
    exec (.missingTimeReached n) s = .next s)

/-- R120, R121, R122, R97, R5: the mismatch that reaches the echo threshold, whichever command brings it, puts the line
in FAULT: its driver and receiver are released, its slots stop coming due, an ECHO_MISMATCH and then a LINE_FAULT notice
are queued, and a stop that held the executor is answered with FAULT and the words it discarded. What the pair shows
afterwards is left open (notes/assumptions/7.md). -/
def Obligations.EchoFault : Prop :=
  ∀ (s : State) (n : LineNo) (command : Instr) (word : LineBits) (judgement : Judgement) (stamp : Stamp) (p : Port),
    s.held = false → s.Judges n command word judgement stamp p → judgement ≠ .matched →
    (s.port n).config.echoThreshold ≤ (s.port n).consecutive + 1 →
    (s.port n).state = .running ∨ (s.port n).state = .stopping →
    ∃ t, exec command s = .next t ∧
      t = { s with ports := t.ports, plan := t.plan, link := t.link, reports := { s.reports with
        notices := t.reports.notices, noticeLoss := t.reports.noticeLoss } } ∧
      (∀ m, m ≠ n → t.port m = s.port m) ∧
      (∃ pair, t.port n = { p with
        state := .fault
        stop := none
        consecutive := (s.port n).consecutive + 1
        receiver := .dormant
        transmitter := .dormant
        comparator := .inactive
        pair
        counters := { p.counters with
          echoMismatches := p.counters.echoMismatches + 1
          cutWords := if p.receiver.midWord then p.counters.cutWords + 1 else p.counters.cutWords } }) ∧
      t.plan = s.plan.map (fun slot =>
        if slot.line = n then { slot with nextDue := none, pending := none } else slot) ∧
      (s.reports.notices.length ≤ 64 → s.reports.noticeLoss ≤ 65535 → s.Noticed t
        [{ body := .echoMismatch judgement ((s.port n).consecutive + 1), line := some n.castSucc
           tag := lineTag word, stamp },
         { body := .lineFault ((s.port n).state == .stopping) judgement ((s.port n).consecutive + 1)
           line := some n.castSucc, tag := lineTag word, stamp }]) ∧
      ((∀ r, s.link.executing ≠ some ⟨r, .stop n⟩) → t.link = s.link) ∧
      (∀ r stop, s.link.executing = some ⟨r, .stop n⟩ → (s.port n).stop = some stop →
        t.link = { s.link.replied r .ok [4, BitVec.ofNat 8 stop.discarded] with requests := s.link.requests })

/-! ### The transmitter and stops -/

/-- R103, R104, R105, R106, R13, R116: a line that may start a word takes, under its transmit policy, the pending slot
with the earliest pending due time and then the lowest index, or the head of its send queue; without a candidate
nothing happens. A slot that reaches its limit disables itself. -/
def Obligations.TransmitSelection : Prop :=
  ∀ (s : State) (n : LineNo), s.held = false → (s.port n).transmitter = .free →
    (s.port n).state = .running ∨ (s.port n).state = .stopping ∧ (∃ d, (s.port n).stop = some ⟨.drain, d⟩) →
    (∀ (slot : Slot) (due : Nat), slot ∈ s.plan → slot.line = n → slot.pending = some due →
      slot.remaining ≠ some 0 →
      (∀ other ∈ s.plan, other.line = n → ∀ d, other.pending = some d →
        other = slot ∨ due < d ∨ due = d ∧ slot.index < other.index) →
      (s.port n).config.policy = .planFirst ∨ (s.port n).sendQueue = [] →
      exec (.transmitSelection n) s = .next (
        let last := slot.remaining = some 1
        let chosen := (s.withSlot { slot with
            pending := none
            updated := false
            sent := slot.sent + 1
            remaining := slot.remaining.map fun k => k - 1
            settings := { slot.settings with enabled := slot.settings.enabled && !decide last }
            nextDue := if last then none else slot.nextDue }).withPort n { s.port n with
          transmitter := .sending (lineWord slot.settings.tag slot.settings.value)
            (s.time.runClock + 40 * bitTime (s.port n).config.rate)
          comparator :=
            if (s.port n).config.role = .echo then
              .waiting (lineWord slot.settings.tag slot.settings.value) none
            else (s.port n).comparator }
        if last ∧ slot.settings.notifyDone = true then
          chosen.queueNotice { body := .slotDone slot.index, line := some n.castSucc, tag := slot.settings.tag
                               stamp := ⟨s.time.lineTime, s.time.epoch⟩ }
        else chosen)) ∧
    (∀ (word : OneOff) (rest : List OneOff), (s.port n).sendQueue = word :: rest →
      (s.port n).config.policy = .queueFirst ∨ (∀ slot ∈ s.plan, slot.line = n → slot.pending = none) →
      exec (.transmitSelection n) s = .next (s.withPort n { s.port n with
        sendQueue := rest
        transmitter := .sending (lineWord word.tag word.value)
          (s.time.runClock + 40 * bitTime (s.port n).config.rate)
        comparator :=
          if (s.port n).config.role = .echo then .waiting (lineWord word.tag word.value) none
          else (s.port n).comparator })) ∧
    ((s.port n).sendQueue = [] → (∀ slot ∈ s.plan, slot.line = n → slot.pending = none) →
      exec (.transmitSelection n) s = .next s)

/-- R13, R116, R118: SENDING lasts its 40 bit times and no less; at its end the word is counted, SPACING of 8 bit times
begins, a waiting comparator takes its missing time, 4 bit times on, and a read-back that was held is judged: here a
MATCH, with keep echo on or off; a mismatch is in EchoMismatch and EchoFault. SPACING ends in FREE. That the two later
moments run from the scheduled end is in notes/assumptions/26.md. R3, R5, R13, R14: what the driver does to its pair. In
SENDING it sends the word's bits in their order, each as two half-bits of half a bit time, a 1 as positive then negative
and a 0 as negative then positive; at the end of SENDING, in SPACING and in FREE it holds the pair null; and it is
released exactly while the line is not RUNNING or STOPPING with role TRANSMIT or ECHO. Table 1-3: the bit times. -/
def Obligations.SendingAndSpacing : Prop :=
  (∀ rate, bitTime rate = match rate with | .k12_5 => 80 | .k50 => 20 | .k100 => 10 | .k200 => 5) ∧
  (∀ (s : State) (n : LineNo), s.held = false →
    let bit := bitTime (s.port n).config.rate
    (∀ word ends start, (s.port n).transmitter = .sending word ends → ends = start + 40 * bit →
      (∀ k < 40, start + k * bit ≤ s.time.runClock → s.time.runClock < start + (k + 1) * bit →
        s.drive n = .sends (
          if 2 * (s.time.runClock - (start + k * bit)) < bit then
            if word.getMsbD k then .positive else .negative
          else if word.getMsbD k then .negative else .positive)) ∧
      (ends ≤ s.time.runClock → s.drive n = .null)) ∧
    ((s.port n).transmitter = .free ∨ (∃ word ends, (s.port n).transmitter = .spacing word ends) →
      s.drive n = .null) ∧
    ((s.port n).Sound → (s.drive n ≠ .released ↔
      ((s.port n).config.role = .transmit ∨ (s.port n).config.role = .echo) ∧
        ((s.port n).state = .running ∨ (s.port n).state = .stopping)))) ∧
  (∀ (s : State) (n : LineNo), s.held = true → s.drive n = .released) ∧
  ∀ (s : State) (n : LineNo), s.held = false →
    (∀ word ends, (s.port n).transmitter = .sending word ends →
      (s.time.runClock < ends → exec (.endOfSending n) s = .next s) ∧
      (ends ≤ s.time.runClock →
        ((∀ sent o, (s.port n).comparator ≠ .held sent o) →
          exec (.endOfSending n) s = .next (s.withPort n { s.port n with
            transmitter := .spacing word (ends + 8 * bitTime (s.port n).config.rate)
            counters := { (s.port n).counters with wordsSent := (s.port n).counters.wordsSent + 1 }
            comparator :=
              match (s.port n).comparator with
              | .waiting sent _ => .waiting sent (some (ends + 4 * bitTime (s.port n).config.rate))
              | other => other })) ∧
        (∀ sent o, (s.port n).comparator = .held sent o → o.kind = .word → o.bits = sent →
          exec (.endOfSending n) s = .next (
            let judged := s.withPort n { s.port n with
              transmitter := .spacing word (ends + 8 * bitTime (s.port n).config.rate)
              counters := { (s.port n).counters with wordsSent := (s.port n).counters.wordsSent + 1 }
              comparator := .clear
              consecutive := 0 }
            if (s.port n).config.keepEcho then
              judged.offerItem
                { kind := .echo, line := n, bits := sent, stamp := o.stamp, offeredAt := s.time.runClock }
            else judged)))) ∧
    (∀ word ends, (s.port n).transmitter = .spacing word ends →
      exec (.endOfSpacing n) s = .next (
        if ends ≤ s.time.runClock then s.withPort n { s.port n with transmitter := .free } else s))

/-- R133, R134, R5: a stop ends when the transmitter is FREE and nothing is left to drain: the line becomes READY, its
driver and receiver are released, and the STOP_LINE that held the executor is answered with READY and the words it
discarded; before that STOP_END changes nothing. -/
def Obligations.StopEnd : Prop :=
  ∀ (s : State) (n : LineNo) (r : Request) (stop : StopInProgress), s.held = false →
    (s.port n).state = .stopping → (s.port n).stop = some stop → s.link.executing = some ⟨r, .stop n⟩ →
    ((s.port n).transmitter = .free → stop.mode = .discard ∨ (s.port n).sendQueue = [] →
      exec (.stopEnd n) s = .next { s.withPort n { s.port n with
          state := .ready
          stop := none
          receiver := .dormant
          transmitter := .dormant
          comparator := .inactive
          counters := { (s.port n).counters with
            cutWords := if (s.port n).receiver.midWord then (s.port n).counters.cutWords + 1
                        else (s.port n).counters.cutWords } } with
        link := { s.link.replied r .ok [1, BitVec.ofNat 8 stop.discarded] with
          requests := s.link.requests } }) ∧
    ((s.port n).transmitter ≠ .free ∨ stop.mode = .drain ∧ (s.port n).sendQueue ≠ [] →
      exec (.stopEnd n) s = .next s)

/-! ### The Transmit Plan -/

/-- R98, R99: a slot falls due at its next due time and not before: a skip, a miss or a pending instance; its next due
time then moves on by one period. R96: the due time a slot joins at is a point of its grid at or after the moment,
and no earlier point is. -/
def Obligations.SlotDueAndGrid : Prop :=
  (∀ (s : State) (i : SlotNo) (slot : Slot) (due : Nat), s.held = false →
    s.plan.find? (fun other => other.index == i) = some slot → slot.nextDue = some due →
    (s.time.runClock < due → exec (.slotDue i) s = .next s) ∧
    (due ≤ s.time.runClock →
      let next := some (due + slot.settings.period * 100)
      (slot.settings.mode = .onUpdate → slot.updated = false →
        exec (.slotDue i) s = .next (s.withSlot { slot with nextDue := next, skips := slot.skips + 1 })) ∧
      (slot.settings.mode = .always ∨ slot.updated = true →
        (slot.pending = none →
          exec (.slotDue i) s = .next (s.withSlot { slot with nextDue := next, pending := some due })) ∧
        (∀ since, slot.pending = some since →
          exec (.slotDue i) s = .next (
            let missed := s.withSlot { slot with nextDue := next, misses := slot.misses + 1 }
            if slot.settings.notifyMiss then
              missed.queueNotice
                { body := .slotMiss slot.index (min 65535 ((s.time.runClock - since) / 100))
                  line := some slot.line.castSucc, tag := slot.settings.tag
                  stamp := ⟨s.time.lineTime, s.time.epoch⟩ }
            else missed))))) ∧
  (∀ (t0 now : Nat) (t : SlotSettings), 0 < t.period →
    ∃ k, gridPoint t0 t now = t0 + (t.phase + k * t.period) * 100 ∧ now ≤ gridPoint t0 t now ∧
      (k = 0 ∨ t0 + (t.phase + (k - 1) * t.period) * 100 < now))

/-- R108, R94, R95, R96, R93, R173: ADD_SLOT enters a slot at a free index, in its place by index, with fresh state, on
its grid where it can come due; a taken index is refused with EXISTS. CHANGE_SLOT replaces the settings but the line
(R109, R110): the limit restores the remaining where it changes or where a slot that stands at 0 is enabled, disabling
clears the pending instance, and a new grid or enabling joins the grid again; an empty index is refused with ABSENT.
Both take the defaults of R173, and refuse with RANGE an index above 383, a line above 11, and settings out of range.
That RANGE comes before EXISTS and ABSENT is the model's choice (notes/assumptions/29.md). Table 11-5: the codes of the
slot modes and of yes and no. -/
def Obligations.AddAndChangeSlot : Prop :=
  (∀ mode, slotModeByte mode = match mode with | .always => 0 | .onUpdate => 1) ∧
  (∀ b, yesNoByte b = if b = true then 1 else 0) ∧
  ∀ (s : State) (r : Request) (rest : List Request) (number : Nat) (line : Byte) (bytes : List Byte),
    s.Offers r rest → number < 65536 → bytes.length = 15 →
    (r.payload = 0x50 :: (bigEndian 2 number ++ line :: bytes) →
      (383 < number ∨ 11 < line.toNat ∨ (∀ t, ¬ SlotSettings.Encoded t bytes) →
        exec .addSlot s = .next { s with link := s.link.replied r .range [] }) ∧
      ∀ (i : SlotNo) (n : LineNo) (t : SlotSettings), number = i.val → line = BitVec.ofNat 8 n.val →
        t.Encoded bytes →
        (s.plan.find? (fun other => other.index == i) = none →
          exec .addSlot s = .next { s with
            plan := insertSlot
              { index := i, line := n, settings := t, updated := false, pending := none
                nextDue :=
                  if t.enabled = true ∧ (s.port n).state = .running ∧
                      ((s.port n).config.role = .transmit ∨ (s.port n).config.role = .echo) then
                    (s.port n).t0.map fun t0 => gridPoint t0 t s.time.runClock
                  else none
                remaining := t.limit, sent := 0, misses := 0, skips := 0 } s.plan
            link := s.link.replied r .ok (bigEndian 2 (s.plan.length + 1)) }) ∧
        (s.plan.find? (fun other => other.index == i) ≠ none →
          exec .addSlot s = .next { s with link := s.link.replied r .exists [] })) ∧
    (r.payload = 0x51 :: (bigEndian 2 number ++ bytes) →
      (383 < number ∨ (∀ t, ¬ SlotSettings.Encoded t bytes) →
        exec .changeSlot s = .next { s with link := s.link.replied r .range [] }) ∧
      ∀ (i : SlotNo) (t : SlotSettings), number = i.val → t.Encoded bytes →
        (∀ slot, s.plan.find? (fun other => other.index == i) = some slot →
          exec .changeSlot s = .next { s.withSlot { slot with
              settings := t
              remaining :=
                if t.limit ≠ slot.settings.limit then t.limit
                else if slot.settings.enabled = false ∧ t.enabled = true ∧ slot.remaining = some 0 then t.limit
                else slot.remaining
              pending := if t.enabled = true then slot.pending else none
              nextDue :=
                if t.enabled = true ∧ slot.settings.enabled = true ∧ t.period = slot.settings.period ∧
                    t.phase = slot.settings.phase then slot.nextDue
                else if t.enabled = true ∧ (s.port slot.line).state = .running ∧
                    ((s.port slot.line).config.role = .transmit ∨ (s.port slot.line).config.role = .echo) then
                  (s.port slot.line).t0.map fun t0 => gridPoint t0 t s.time.runClock
                else none } with
            link := s.link.replied r .ok [] }) ∧
        (s.plan.find? (fun other => other.index == i) = none →
          exec .changeSlot s = .next { s with link := s.link.replied r .absent [] }))

/-- R111, R112: SET_VALUE gives a slot its value and marks it updated; REMOVE_SLOT removes the slot and answers the
number left. An index that holds no slot is refused with ABSENT, an index above 383 with RANGE. -/
def Obligations.SetValueAndRemoveSlot : Prop :=
  ∀ (s : State) (r : Request) (rest : List Request) (i : Nat) (value : Value), s.Offers r rest → i < 65536 →
    (r.payload = 0x52 :: (bigEndian 2 i ++ bigEndian 3 value.toNat) →
      (383 < i → exec .setValue s = .next { s with link := s.link.replied r .range [] }) ∧
      ((∀ slot ∈ s.plan, slot.index.val ≠ i) → i ≤ 383 →
        exec .setValue s = .next { s with link := s.link.replied r .absent [] }) ∧
      (∀ slot, s.plan.find? (fun other => other.index.val == i) = some slot →
        exec .setValue s = .next
          { s.withSlot { slot with settings := { slot.settings with value }, updated := true } with
            link := s.link.replied r .ok [] })) ∧
    (r.payload = 0x53 :: bigEndian 2 i →
      (383 < i → exec .removeSlot s = .next { s with link := s.link.replied r .range [] }) ∧
      ((∀ slot ∈ s.plan, slot.index.val ≠ i) → i ≤ 383 →
        exec .removeSlot s = .next { s with link := s.link.replied r .absent [] }) ∧
      (∀ slot ∈ s.plan, slot.index.val = i →
        exec .removeSlot s = .next { s with
          plan := s.plan.filter (fun other => other.index.val != i)
          link := s.link.replied r .ok
            (bigEndian 2 (s.plan.filter fun other => other.index.val != i).length) }))

/-- R113. READ_SLOT answers the slot's settings and state, and with its clear option sets the three counters to 0 after;
an index above 383 is refused with RANGE and an index that holds no slot with ABSENT. The settings stand as held, in the
layout and the codes of Chapter 11. -/
def Obligations.ReadSlot : Prop :=
  (∀ (line : LineNo) (t : SlotSettings), slotSettingsBytes line t =
    BitVec.ofNat 8 line.val :: (bigEndian 2 t.tag.toNat ++ bigEndian 3 t.value.toNat ++ bigEndian 2 t.period ++
      bigEndian 2 t.phase ++ [match t.mode with | .always => (0 : Byte) | .onUpdate => 1] ++
      bigEndian 2 (t.limit.getD 0) ++
      [if t.enabled then (1 : Byte) else 0, if t.notifyMiss then 1 else 0, if t.notifyDone then 1 else 0])) ∧
  ∀ (s : State) (r : Request) (rest : List Request) (i : Nat) (clear : Bool), s.Offers r rest → i < 65536 →
    r.payload = 0x54 :: (bigEndian 2 i ++ [if clear then 1 else 0]) →
    (383 < i → exec .readSlot s = .next { s with link := s.link.replied r .range [] }) ∧
    ((∀ slot ∈ s.plan, slot.index.val ≠ i) → i ≤ 383 →
      exec .readSlot s = .next { s with link := s.link.replied r .absent [] }) ∧
    (∀ slot, s.plan.find? (fun other => other.index.val == i) = some slot →
      exec .readSlot s = .next
        { (if clear then s.withSlot { slot with sent := 0, misses := 0, skips := 0 } else s) with
          link := s.link.replied r .ok
            (slotSettingsBytes slot.line slot.settings ++ [if slot.updated then 1 else 0] ++
             [if slot.pending.isSome then 1 else 0] ++ bigEndian 8 (slot.pending.getD 0) ++
             [if slot.nextDue.isSome then 1 else 0] ++ bigEndian 8 (slot.nextDue.getD 0) ++
             bigEndian 2 (slot.remaining.getD 0) ++ bigEndian 4 slot.sent.toNat ++
             bigEndian 4 slot.misses.toNat ++ bigEndian 4 slot.skips.toNat) })

/-- R102: SEND puts its words at the back of a send queue with room for all of them; refused are, in this order, a line
above 11, a count of 0 or above 16 or a tag above 4095 among the words counted (RANGE), a line that is not TRANSMIT or
ECHO and READY or RUNNING (STATE), and a queue without room (FULL). The places beyond the count are not looked at. -/
def Obligations.Send : Prop :=
  (∀ (s : State) (r : Request) (rest : List Request) (line count : Byte) (places : List Byte),
    s.Offers r rest → places.length = 80 → r.payload = 0x55 :: line :: count :: places →
    11 < line.toNat ∨ count.toNat = 0 ∨ 16 < count.toNat ∨
      (∃ k < count.toNat, 4095 < fromBytes ((places.drop (5 * k)).take 2)) →
    exec .send s = .next { s with link := s.link.replied r .range [] }) ∧
  (∀ (s : State) (r : Request) (rest : List Request) (n : LineNo) (words : List OneOff) (fill : List Byte),
    s.Offers r rest → words ≠ [] → words.length ≤ 16 → fill.length = 80 - 5 * words.length →
    r.payload = 0x55 :: BitVec.ofNat 8 n.val :: BitVec.ofNat 8 words.length ::
      ((words.map fun w => bigEndian 2 w.tag.toNat ++ bigEndian 3 w.value.toNat).flatten ++ fill) →
    exec .send s = .next (
      if (s.port n).config.role = .transmit ∨ (s.port n).config.role = .echo then
        if (s.port n).state = .ready ∨ (s.port n).state = .running then
          if (s.port n).sendQueue.length + words.length ≤ 32 then
            { s.withPort n { s.port n with sendQueue := (s.port n).sendQueue ++ words } with
              link := s.link.replied r .ok
                [BitVec.ofNat 8 ((s.port n).sendQueue.length + words.length)] }
          else { s with link := s.link.replied r .full [] }
        else { s with link := s.link.replied r .state [] }
      else { s with link := s.link.replied r .state [] }))

/-! ### The Tag Table -/

/-- R26, R60, R62: a word that matches no entry is counted as a miss and recorded by the line's miss route; an error word
and an echo capture make one record each in their line's queue; and the LINE_START MARKs attached to an item, in the
order of their starts, follow its records. -/
def Obligations.TakeUnmatched : Prop :=
  ∀ (s : State) (item : Item) (rest : List Item), s.Takes item rest →
    let taken := { s with intake := rest, busy := some { item := { item with marks := [] }, takenAt := s.time.runClock } }
    let mine := item.line.castSucc
    let marked := fun t : State => item.marks.foldl (fun t stamp =>
      t.offer mine { body := .mark .lineStart, line := mine, bits := 0, stamp }) t
    (item.kind = .word → s.entryOf ⟨.port item.line, lineTag item.bits⟩ = none →
      s.entryOf ⟨.any, lineTag item.bits⟩ = none →
      exec .intakeTake s = .next (marked (
        let counted := taken.withPort item.line { s.port item.line with
          counters := { (s.port item.line).counters with misses := (s.port item.line).counters.misses + 1 } }
        let record : CaptureRecord :=
          { body := .word ⟨false, false, false, false, true, false⟩, line := mine, bits := item.bits, stamp := item.stamp }
        match (s.port item.line).config.missRoute with
        | .none => counted
        | .line => counted.offer mine record
        | .merged => counted.offer mergedQueue record
        | .both => (counted.offer mine record).offer mergedQueue record))) ∧
    (∀ kind count, item.kind = .errorWord kind count →
      exec .intakeTake s = .next (marked (taken.offer mine
        { body := .errorWord kind count, line := mine, bits := item.bits, stamp := item.stamp }))) ∧
    (item.kind = .echo →
      exec .intakeTake s = .next (marked (taken.offer mine
        { body := .word ⟨false, false, false, false, false, true⟩, line := mine, bits := item.bits
          stamp := item.stamp })))

/-- R24, R25, R27, R52, R53, R54: a word matches the exact entry of its line and tag, failing that the ANY entry of the
tag. A word whose interval is at least the min interval is accepted; an early one is counted, may queue an EARLY
notice, and is accepted under KEEP with the EARLY flag and dropped under DROP. R62: the LINE_START MARKs attached to the
item follow, also where the word was dropped. R25, R28 to R32, R45, R49: what an accepted word does, in order: the
entry's counts, freshness and latest, the FRESH_AGAIN notice of a STALE entry, the records, the CHANGE notice. -/
def Obligations.TakeMatched : Prop :=
  (∀ (s : State) (item : Item) (rest : List Item) (e : Entry), s.Takes item rest → item.kind = .word →
    (s.entryOf ⟨.port item.line, lineTag item.bits⟩ = some e ∨
      s.entryOf ⟨.port item.line, lineTag item.bits⟩ = none ∧ s.entryOf ⟨.any, lineTag item.bits⟩ = some e) →
    let taken := { s with intake := rest, busy := some { item := { item with marks := [] }, takenAt := s.time.runClock } }
    let mine := item.line.castSucc
    let marked := fun t : State => item.marks.foldl (fun t stamp =>
      t.offer mine { body := .mark .lineStart, line := mine, bits := 0, stamp }) t
    ((∀ ms last, e.settings.minInterval = some ms → e.lastAccepted = some last →
        ms * 1000 ≤ s.time.runClock - last) →
      exec .intakeTake s = .next (marked (taken.acceptWord e false item))) ∧
    (∀ ms last, e.settings.minInterval = some ms → e.lastAccepted = some last →
      s.time.runClock - last < ms * 1000 →
      let counted := { e with early := e.early + 1 }
      let noticed :=
        if e.settings.notifyEarly then
          (taken.withEntry counted).queueNotice
            { body := .early e.settings.earlyAction (s.time.runClock - last), line := some mine
              tag := e.key.tag, stamp := item.stamp }
        else taken.withEntry counted
      exec .intakeTake s = .next (marked (
        match e.settings.earlyAction with
        | .drop => noticed
        | .keep => noticed.acceptWord counted true item)))) ∧
  (∀ (s : State) (e : Entry) (early : Bool) (item : Item),
    s.acceptWord e early item = (
      let now := s.time.runClock
      let changed := decide (e.latest.map Latest.value ≠ some (lineValue item.bits))
      let kept := s.withEntry { e with
        accepted := e.accepted + 1
        lastAccepted := some now
        firstDue := false
        freshness :=
          match e.freshness with
          | .unseen _ | .fresh _ | .stale _ => .fresh (now + e.settings.deadline.getD 0 * 1000)
          | other => other
        latest := if e.settings.keepLatest then some ⟨lineValue item.bits, item.stamp, item.line⟩ else none
        unchanged := if e.settings.onChange && !changed then e.unchanged + 1 else e.unchanged }
      let again :=
        match e.freshness with
        | .stale since => kept.queueNotice
            { body := .freshAgain (min 4294967295 ((now - since) / 1000)), line := some item.line.castSucc
              tag := e.key.tag, stamp := item.stamp }
        | _ => kept
      let record : CaptureRecord :=
        { body := .word { early, first := e.firstDue, changed, any := e.key.line == .any, miss := false, own := false }
          line := item.line.castSucc, bits := item.bits, stamp := item.stamp }
      let routed := decide (e.settings.onChange = false ∨ changed = true)
      let lined := if routed && e.settings.routeLine then again.offer item.line.castSucc record else again
      let merged := if routed && e.settings.routeMerged then lined.offer mergedQueue record else lined
      if e.settings.notify = .each ∨ e.settings.notify = .change ∧ changed = true then
        merged.queueNotice
          { body := .change changed (lineValue item.bits), line := some item.line.castSucc, tag := e.key.tag
            stamp := item.stamp }
      else merged))

/-- R18, R46, R48: the Tag Table's work on an item does not end in the microsecond of its take (when it ends within 40
µs is a free value, notes/assumptions/5.md). Its end leaves the table free: LINE_START MARKs attached meanwhile are
offered (notes/assumptions/8.md), and then the line starts and stops that waited reach the entries in their order (R22,
R43, R44). A start sets first due and, on a RECEIVE line, begins monitoring; a stop takes the entries to IDLE, after the
expiries that waited since before it; the order of these expiries, that they come inside TAG_TABLE_WORK_DONE before
those of other lines, and that one of the stop's own microsecond, or reached after the stop while the same work goes on,
gives way to the stop, are the model's choices (notes/assumptions/9.md). An expiry is taken at or after its time, never
before and not while the table works, and makes the entry STALE with a STALE notice, with the stale-since time and the
stamp of notes/assumptions/11.md. R33, R46: a Tag Table request taken while the table works, or while an expiry waits
(notes/assumptions/10.md), waits in execution, and is carried out afterwards as if it were taken then. R18, R33, R46:
INTAKE_TAKE changes nothing while the table works, while such a request or such an expiry waits, or with an empty
intake. -/
def Obligations.TagTableTimed : Prop :=
  (∀ (s : State) (b : Busy), s.held = false → s.busy = some b →
    (s.time.runClock ≤ b.takenAt → exec .tagTableWorkDone s = .next s) ∧
    (b.takenAt < s.time.runClock →
      exec .tagTableWorkDone s = .next (s.lineChanges.foldl State.applyLineChange
        (b.item.marks.foldl (fun t stamp => t.offer b.item.line.castSucc
            { body := .mark .lineStart, line := b.item.line.castSucc, bits := 0, stamp })
          { s with busy := none, lineChanges := [] })))) ∧
  (∀ (s : State) (line : LineNo) (receive : Bool) (t0 : Nat),
    s.applyLineChange (.started line receive t0) = { s with
      tags := s.tags.map (fun e =>
        if e.key.line = .port line then
          { e with
            firstDue := true
            freshness :=
              match e.freshness, e.settings.deadline with
              | .idle, some ms => if receive then .unseen (t0 + ms * 1000) else .idle
              | other, _ => other }
        else e) }) ∧
  (∀ (s : State) (line : LineNo) (moment : Nat), s.tags.Pairwise (fun a b => a.key.rank < b.key.rank) →
    let waited := s.tags.filter fun e => decide (e.key.line = .port line) &&
      match e.freshness with
      | .unseen expiry | .fresh expiry => decide (expiry < moment)
      | _ => false
    s.applyLineChange (.stopped line moment) = {
      waited.foldl (fun t e => t.queueNotice
        { body := .stale (match e.freshness with | .fresh _ => true | _ => false) (e.settings.deadline.getD 0)
          line := some line.castSucc, tag := e.key.tag, stamp := ⟨s.time.lineTime, s.time.epoch⟩ }) s with
      tags := s.tags.map (fun e =>
        if e.key.line = .port line then
          { e with freshness := if e.freshness = .none then .none else .idle }
        else e) }) ∧
  (∀ s : State, s.busy = none → exec .tagTableWorkDone s = .next s) ∧
  (∀ (s : State) (line : LineNo) (tag : Tag) (e : Entry) (expiry ms : Nat), s.held = false →
    s.entryOf ⟨.port line, tag⟩ = some e → e.settings.deadline = some ms →
    e.freshness = .unseen expiry ∨ e.freshness = .fresh expiry →
    (expiry ≤ s.time.runClock → s.busy = none →
      exec (.freshnessExpiry line tag) s = .next ((s.withEntry { e with freshness := .stale expiry }).queueNotice
        { body := .stale (e.freshness == .fresh expiry) ms, line := some line.castSucc, tag
          stamp := ⟨s.time.lineTime, s.time.epoch⟩ })) ∧
    (s.time.runClock < expiry ∨ s.busy ≠ none → exec (.freshnessExpiry line tag) s = .next s)) ∧
  (∀ (s : State) (r : Request), ∀ row ∈ requestTable, s.held = false → 0x20 ≤ row.code.toNat → row.code.toNat ≤ 0x25 →
    requestCommand r.payload = row.command → r.payload.length = row.length →
    (∀ rest, s.Offers r rest → s.busy ≠ none ∨ s.expiryWaits = true →
      exec row.command s = .next { s with link := { s.link with
        requests := rest, executing := some ⟨r, .atTagTable⟩ } }) ∧
    (s.link.executing = some ⟨r, .atTagTable⟩ → s.busy ≠ none ∨ s.expiryWaits = true →
      exec row.command s = .next s) ∧
    (s.link.executing = some ⟨r, .atTagTable⟩ → s.link.replies.length < 8 →
      exec row.command s = exec row.command { s with link := { s.link with
        executing := none, requests := r :: s.link.requests } })) ∧
  (∀ s : State, s.busy ≠ none ∨ (∃ r, s.link.executing = some ⟨r, .atTagTable⟩) ∨ s.intake = [] ∨
      (∃ e ∈ s.tags, ∃ expiry, (e.freshness = .unseen expiry ∨ e.freshness = .fresh expiry) ∧
        expiry < s.time.runClock) →
    exec .intakeTake s = .next s)

/-- R34, R35, R21, R42, R50, R173: ADD_TAG enters an entry with fresh state in its place in listing order; CHANGE_TAG
replaces the settings, keeps the state, and gives freshness as R50 says. Both take the defaults of R173; that a deadline
or min interval of 0 is absent, and is no refusal, is the model's reading of R173 and section 11.3 against R21
(notes/assumptions/12.md). A key or settings that R21 does not allow are refused with RANGE, a key that is there with
EXISTS, a full table with FULL, a key that is not there with ABSENT. Table 11-5: the codes of notify, early action,
route and key. -/
def Obligations.AddAndChangeTag : Prop :=
  (∀ notify, notifyByte notify = match notify with | .none => 0 | .each => 1 | .change => 2) ∧
  (∀ action, earlyActionByte action = match action with | .keep => 0 | .drop => 1) ∧
  (∀ line merged, routeByte (line, merged) =
    match line, merged with | false, false => 0 | true, false => 1 | false, true => 2 | true, true => 3) ∧
  (∀ key : Key, keyBytes key =
    (match key.line with | .port n => BitVec.ofNat 8 n.val | .any => 12) :: bigEndian 2 key.tag.toNat) ∧
  ∀ (s : State) (r : Request) (rest : List Request) (line : Byte) (number : Nat) (bytes : List Byte),
    s.OffersTag r rest → number < 65536 → bytes.length = 10 →
    (12 < line.toNat ∨ 4095 < number ∨ (∀ t, ¬ EntrySettings.Encoded t bytes) →
      (r.payload = 0x20 :: line :: (bigEndian 2 number ++ bytes) →
        exec .addTag s = .next { s with link := s.link.replied r .range [] }) ∧
      (r.payload = 0x21 :: line :: (bigEndian 2 number ++ bytes) →
        exec .changeTag s = .next { s with link := s.link.replied r .range [] })) ∧
    ∀ (key : Key) (t : EntrySettings), t.Encoded bytes →
      let first : Freshness :=
        match t.deadline, key.line with
        | none, _ => .none
        | some ms, .port n =>
          if (s.port n).config.role = .receive ∧ (s.port n).state = .running then
            .unseen (s.time.runClock + ms * 1000)
          else .idle
        | some _, .any => .idle
      (r.payload = 0x20 :: (keyBytes key ++ bytes) →
        (¬ t.Allowed key → exec .addTag s = .next { s with link := s.link.replied r .range [] }) ∧
        (t.Allowed key → s.entryOf key ≠ none →
          exec .addTag s = .next { s with link := s.link.replied r .exists [] }) ∧
        (t.Allowed key → s.entryOf key = none → 640 ≤ s.tags.length →
          exec .addTag s = .next { s with link := s.link.replied r .full [] }) ∧
        (t.Allowed key → s.entryOf key = none → s.tags.length < 640 →
          exec .addTag s = .next { s with
            tags := insertEntry
              { key, settings := t, latest := none, lastAccepted := none, firstDue := true, freshness := first
                accepted := 0, early := 0, unchanged := 0 } s.tags
            link := s.link.replied r .ok (bigEndian 2 (s.tags.length + 1)) })) ∧
      (r.payload = 0x21 :: (keyBytes key ++ bytes) →
        (¬ t.Allowed key → exec .changeTag s = .next { s with link := s.link.replied r .range [] }) ∧
        (t.Allowed key → s.entryOf key = none →
          exec .changeTag s = .next { s with link := s.link.replied r .absent [] }) ∧
        (∀ e, t.Allowed key → s.entryOf key = some e →
          exec .changeTag s = .next { s.withEntry { e with
              settings := t
              latest := if t.keepLatest then e.latest else none
              freshness :=
                if t.deadline = e.settings.deadline then e.freshness
                else match t.deadline, e.freshness with
                  | none, _ => .none
                  | some _, .none => first
                  | some ms, .unseen _ => .unseen (s.time.runClock + ms * 1000)
                  | some ms, .fresh _ => .fresh (s.time.runClock + ms * 1000)
                  | some _, .stale since => .stale since
                  | some _, .idle => .idle } with
            link := s.link.replied r .ok [] }))

/-- R36, R39, R38: REMOVE_TAG and CLEAR_TAGS remove the entries they name with all their state and without a notice;
LIST_TAGS answers the keys from its start key on, at most the count asked, and whether more follow. A key or a selector
out of range, and a count of 0 or above 12, are refused with RANGE. -/
def Obligations.RemoveClearListTags : Prop :=
  ∀ (s : State) (r : Request) (rest : List Request) (key : Key), s.OffersTag r rest →
    (∀ (line : Byte) (number : Nat), number < 65536 → 12 < line.toNat ∨ 4095 < number →
      (r.payload = 0x22 :: line :: bigEndian 2 number →
        exec .removeTag s = .next { s with link := s.link.replied r .range [] }) ∧
      (∀ most, r.payload = 0x24 :: line :: (bigEndian 2 number ++ [most]) →
        exec .listTags s = .next { s with link := s.link.replied r .range [] })) ∧
    (∀ selector : Byte, 12 < selector.toNat → selector.toNat < 255 → r.payload = [0x25, selector] →
      exec .clearTags s = .next { s with link := s.link.replied r .range [] }) ∧
    (r.payload = 0x22 :: keyBytes key →
      exec .removeTag s = .next (
        if s.entryOf key = none then { s with link := s.link.replied r .absent [] }
        else { s with
          tags := s.tags.filter (fun e => e.key != key)
          link := s.link.replied r .ok (bigEndian 2 (s.tags.filter fun e => e.key != key).length) })) ∧
    (r.payload = [0x25, BitVec.ofNat 8 key.line.number] →
      exec .clearTags s = .next { s with
        tags := s.tags.filter (fun e => e.key.line != key.line)
        link := s.link.replied r .ok (bigEndian 2 (s.tags.countP fun e => e.key.line == key.line)) }) ∧
    (r.payload = [0x25, 255] →
      exec .clearTags s = .next { s with
        tags := [], link := s.link.replied r .ok (bigEndian 2 s.tags.length) }) ∧
    (∀ most, most < 256 → r.payload = 0x24 :: (keyBytes key ++ [BitVec.ofNat 8 most]) →
      exec .listTags s = .next { s with
        link :=
          if 1 ≤ most ∧ most ≤ 12 then
            let keys := (s.tags.map Entry.key).filter fun other => decide (key.rank ≤ other.rank)
            let listed := keys.take most
            s.link.replied r .ok
              (BitVec.ofNat 8 listed.length :: (if most < keys.length then 1 else 0) ::
                ((listed.map keyBytes).flatten ++ List.replicate (36 - 3 * listed.length) 0))
          else s.link.replied r .range [] })

/-- R37. READ_TAG answers the entry's settings and state, and with its clear option sets the three counters to 0 after;
a key out of range is refused with RANGE and a key that is not in the table with ABSENT. The settings stand as held, in
the layout and the codes of Chapter 11. -/
def Obligations.ReadTag : Prop :=
  (∀ t : EntrySettings, entrySettingsBytes t =
    [(if t.routeLine then (1 : Byte) else 0) + (if t.routeMerged then 2 else 0), if t.keepLatest then 1 else 0,
      if t.onChange then 1 else 0, match t.notify with | .none => 0 | .each => 1 | .change => 2] ++
    bigEndian 2 (t.deadline.getD 0) ++ bigEndian 2 (t.minInterval.getD 0) ++
    [match t.earlyAction with | .keep => (0 : Byte) | .drop => 1, if t.notifyEarly then 1 else 0]) ∧
  ∀ (s : State) (r : Request) (rest : List Request) (clear : Bool), s.OffersTag r rest →
    (∀ (line : Byte) (tag : Nat), tag < 65536 → 12 < line.toNat ∨ 4095 < tag →
      r.payload = 0x23 :: line :: (bigEndian 2 tag ++ [if clear then 1 else 0]) →
      exec .readTag s = .next { s with link := s.link.replied r .range [] }) ∧
    (∀ key, r.payload = 0x23 :: (keyBytes key ++ [if clear then 1 else 0]) →
      (s.entryOf key = none → exec .readTag s = .next { s with link := s.link.replied r .absent [] }) ∧
      (∀ e, s.entryOf key = some e →
        exec .readTag s = .next
          { (if clear then s.withEntry { e with accepted := 0, early := 0, unchanged := 0 } else s) with
            link := s.link.replied r .ok
              (entrySettingsBytes e.settings ++ bigEndian 4 e.accepted.toNat ++ bigEndian 4 e.early.toNat ++
               bigEndian 4 e.unchanged.toNat ++ [if e.firstDue then 1 else 0] ++
               (match e.freshness with
                | .none => 0 :: bigEndian 4 0
                | .idle => 1 :: bigEndian 4 0
                | .unseen expiry => 2 :: bigEndian 4 ((expiry - s.time.runClock + 999) / 1000)
                | .fresh expiry => 3 :: bigEndian 4 ((expiry - s.time.runClock + 999) / 1000)
                | .stale since => 4 :: bigEndian 4 (min 4294967295 ((s.time.runClock - since) / 1000))) ++
               [if e.lastAccepted.isSome then 1 else 0] ++ bigEndian 8 (e.lastAccepted.getD 0) ++
               (match e.latest with
                | some l => 1 :: (bigEndian 3 l.value.toNat ++ bigEndian 8 l.stamp.time ++
                    [l.stamp.epoch, BitVec.ofNat 8 l.line.val])
                | none => List.replicate 14 0)) }))

/-! ### Capture queues -/

/-- R58, R63, R64, R65, R66, R68, R71, R72: an offer keeps a queue's accounting sound and the records in flight in their
places; it counts as offered, appends the record at the back where there is room, and otherwise exactly one record is
lost: the one offered under KEEP_OLD or with every record in flight, else the oldest waiting one, in whose place the
offered record enters at the back. R73: an append that fills a queue whose full notice is armed queues QUEUE_FULL with
the record's stamp and disarms the notice; an offer touches no other queue, and news gained starts the stream's hold
(R156). R155: a notice enters the notice queue at the back, or where 64 are held is lost to the saturating pending
loss. -/
def Obligations.QueueOffer : Prop :=
  (∀ (q : CaptureQueue) (r : CaptureRecord), q.Sound →
    (q.offer r).Sound ∧
    (q.offer r).depth = q.depth ∧ (q.offer r).policy = q.policy ∧ (q.offer r).inFlight = q.inFlight ∧
    (q.offer r).offered = q.offered + 1 ∧ (q.offer r).acknowledged = q.acknowledged ∧
    (q.offer r).records.take q.inFlight = q.records.take q.inFlight ∧
    (q.records.length < q.depth →
      (q.offer r).records = q.records ++ [r] ∧ (q.offer r).lostTotal = q.lostTotal ∧
      (q.offer r).pendingLoss = q.pendingLoss ∧
      (q.offer r).armed = (q.armed && decide (q.records.length + 1 ≠ q.depth))) ∧
    (q.records.length = q.depth →
      (q.offer r).lostTotal = q.lostTotal + 1 ∧
      (q.offer r).pendingLoss = min 4294967295 (q.pendingLoss + 1) ∧
      (q.offer r).armed = q.armed ∧
      (q.offer r).records =
        if q.policy = .keepNew ∧ q.inFlight < q.records.length then q.records.eraseIdx q.inFlight ++ [r]
        else q.records)) ∧
  (∀ (s : State) (n : QueueNo) (r : CaptureRecord),
    let t := s.offer n r
    t = { s with
      queues := t.queues
      reports := { s.reports with
        notices := t.reports.notices, noticeLoss := t.reports.noticeLoss, streams := t.reports.streams } } ∧
    t.queue n = (s.queue n).offer r ∧ (∀ m, m ≠ n → t.queue m = s.queue m ∧ t.stream m = s.stream m) ∧
    t.stream n = { s.stream n with holdStart :=
      if (t.queue n).hasNews then some ((s.stream n).holdStart.getD s.time.runClock) else none } ∧
    (s.reports.notices.length ≤ 64 → s.reports.noticeLoss ≤ 65535 → s.Noticed t (s.fullNotice r.stamp n))) ∧
  (∀ (s : State) (x : Notice),
    (s.reports.notices.length < 64 →
      s.queueNotice x = { s with reports := { s.reports with notices := s.reports.notices ++ [x] } }) ∧
    (64 ≤ s.reports.notices.length →
      s.queueNotice x =
        { s with reports := { s.reports with noticeLoss := min 65535 (s.reports.noticeLoss + 1) } }))

/-- R75, R76: SET_QUEUE, judged in the order of R75; a depth change discards and counts as lost every record held and
re-arms the full notice, and a depth of FFFFh keeps the depth and the records. -/
def Obligations.SetQueue : Prop :=
  ∀ (s : State) (r : Request) (rest : List Request) (number policy : Byte) (depth : Nat), s.Offers r rest →
    depth < 65536 → r.payload = 0x30 :: number :: (bigEndian 2 depth ++ [policy]) →
    (12 < number.toNat ∨ 1 < policy.toNat ∨ (8192 < depth ∧ depth ≠ 65535) →
      exec .setQueue s = .next { s with link := s.link.replied r .range [] }) ∧
    (∀ n : QueueNo, number = BitVec.ofNat 8 n.val → policy.toNat ≤ 1 →
      let chosen : QueuePolicy := if policy = 0 then .keepOld else .keepNew
      (depth = 65535 →
        exec .setQueue s = .next { s.withQueue n { s.queue n with policy := chosen } with
          link := s.link.replied r .ok (bigEndian 2 0 ++ bigEndian 2 s.freePool) }) ∧
      (depth ≤ 8192 → n = 12 → exec .setQueue s = .next { s with link := s.link.replied r .range [] }) ∧
      (∀ line : LineNo, depth ≤ 8192 → n = line.castSucc →
        ((s.port line).state = .running ∨ (s.port line).state = .stopping ∨ 0 < (s.queue n).inFlight →
          exec .setQueue s = .next { s with link := s.link.replied r .state [] }) ∧
        ((s.port line).state ≠ .running → (s.port line).state ≠ .stopping → (s.queue n).inFlight = 0 →
          (8192 < s.otherDepths n + depth →
            exec .setQueue s = .next { s with link := s.link.replied r .full [] }) ∧
          (s.otherDepths n + depth ≤ 8192 →
            exec .setQueue s = .next { s.withQueue n { s.queue n with
                depth
                policy := chosen
                records := []
                lostTotal := (s.queue n).lostTotal + BitVec.ofNat 32 (s.queue n).records.length
                pendingLoss := min 4294967295 ((s.queue n).pendingLoss + (s.queue n).records.length)
                armed := true } with
              link := s.link.replied r .ok
                (bigEndian 2 (s.queue n).records.length ++
                 bigEndian 2 (8192 - (s.otherDepths n + depth))) }))))

/-- R77. READ_QUEUE answers a queue's state; its clear option is carried out only with nothing held. -/
def Obligations.ReadQueue : Prop :=
  ∀ (s : State) (r : Request) (rest : List Request) (clear : Bool), s.Offers r rest →
    (∀ number : Byte, 12 < number.toNat → r.payload = [0x31, number, if clear then 1 else 0] →
      exec .readQueue s = .next { s with link := s.link.replied r .range [] }) ∧
    (∀ n : QueueNo, r.payload = [0x31, BitVec.ofNat 8 n.val, if clear then 1 else 0] →
      let q := s.queue n
      let values :=
        bigEndian 2 q.depth ++ [if q.policy = .keepOld then 0 else 1] ++ bigEndian 2 q.records.length ++
        [BitVec.ofNat 8 q.inFlight] ++ bigEndian 4 q.pendingLoss ++ bigEndian 4 q.offered.toNat ++
        bigEndian 4 q.acknowledged.toNat ++ bigEndian 4 q.lostTotal.toNat ++ [if q.armed then 1 else 0]
      (clear = false → exec .readQueue s = .next { s with link := s.link.replied r .ok values }) ∧
      (clear = true → q.records = [] →
        exec .readQueue s = .next { s.withQueue n { q with offered := 0, acknowledged := 0, lostTotal := 0 } with
          link := s.link.replied r .ok values }) ∧
      (clear = true → q.records ≠ [] →
        exec .readQueue s = .next { s with link := s.link.replied r .state [] }))

/-! ### Line control -/

/-- R126, R127, R173: CONFIGURE_LINE replaces the eight settings of a line in OFF or READY, with the defaults of R173,
empties the send queue where the new role is RECEIVE or OFF, and answers the new state and the words discarded. A line
above 11 or a setting out of range is refused with RANGE, and then a line in another state with STATE. Table 11-5: the
codes of the settings. -/
def Obligations.ConfigureLine : Prop :=
  (∀ role, roleByte role = match role with | .off => 0 | .receive => 1 | .transmit => 2 | .echo => 3) ∧
  (∀ rate, rateByte rate = match rate with | .k12_5 => 0 | .k50 => 1 | .k100 => 2 | .k200 => 3) ∧
  (∀ route, missRouteByte route = match route with | .none => 0 | .line => 1 | .merged => 2 | .both => 3) ∧
  (∀ policy, policyByte policy = match policy with | .planFirst => 0 | .queueFirst => 1) ∧
  (∀ b, yesNoByte b = if b = true then 1 else 0) ∧
  ∀ (s : State) (r : Request) (rest : List Request) (line : Byte) (bytes : List Byte), s.Offers r rest →
    bytes.length = 8 → r.payload = 0x10 :: line :: bytes →
    (11 < line.toNat ∨ (∀ c, ¬ LineConfig.Encoded c bytes) →
      exec .configureLine s = .next { s with link := s.link.replied r .range [] }) ∧
    ∀ (n : LineNo) (c : LineConfig), line = BitVec.ofNat 8 n.val → c.Encoded bytes →
      ((s.port n).state = .off ∨ (s.port n).state = .ready →
        exec .configureLine s = .next { s.withPort n { s.port n with
            config := c
            state := if c.role = .off then .off else .ready
            sendQueue := if c.role = .receive ∨ c.role = .off then [] else (s.port n).sendQueue } with
          link := s.link.replied r .ok
            [if c.role = .off then 0 else 1,
             if c.role = .receive ∨ c.role = .off then BitVec.ofNat 8 (s.port n).sendQueue.length else 0] }) ∧
      ((s.port n).state = .running ∨ (s.port n).state = .stopping ∨ (s.port n).state = .fault →
        exec .configureLine s = .next { s with link := s.link.replied r .state [] })

/-- R128, R129, R130, R22, R43, R62, R96, R115: START_LINE moves a READY line to RUNNING with T0 at the run clock and
answers T0 and the stamp. A RECEIVE line's receiver looks at the pair, its exact entries are monitored, and a LINE_START
MARK is attached to the newest item of the line in the intake, failing that to one that the Tag Table works on, failing
that offered to the line's queue at once; a TRANSMIT or ECHO line's transmitter is FREE and its slots join the grid of
the new T0. While the Tag Table works, the change to the entries waits. A line in another state is refused with STATE, a
line above 11 with RANGE. -/
def Obligations.StartLine : Prop :=
  ∀ (s : State) (r : Request) (rest : List Request), s.Offers r rest →
    (∀ number : Byte, 11 < number.toNat → r.payload = [0x11, number] →
      exec .startLine s = .next { s with link := s.link.replied r .range [] }) ∧
    (∀ n : LineNo, r.payload = [0x11, BitVec.ofNat 8 n.val] →
      let reply := s.link.replied r .ok
        (bigEndian 8 s.time.runClock ++ bigEndian 8 s.time.lineTime ++ [s.time.epoch])
      let stamp : Stamp := ⟨s.time.lineTime, s.time.epoch⟩
      let told : Bool → State → State := fun receive t =>
        if s.busy.isSome then { t with lineChanges := s.lineChanges ++ [.started n receive s.time.runClock] }
        else { t with tags := s.tags.map (fun e =>
          if e.key.line = .port n then
            { e with
              firstDue := true
              freshness :=
                match e.freshness, e.settings.deadline with
                | .idle, some ms => if receive then .unseen (s.time.runClock + ms * 1000) else .idle
                | other, _ => other }
          else e) }
      ((s.port n).state ≠ .ready → exec .startLine s = .next { s with link := s.link.replied r .state [] }) ∧
      ((s.port n).state = .ready → (s.port n).config.role = .receive →
        let started := told true (s.withPort n { s.port n with
          state := .running, t0 := some s.time.runClock, receiver := .idle (s.port n).pair.isSome })
        ((∀ item ∈ s.intake, item.line ≠ n) → (∀ b, s.busy = some b → b.item.line ≠ n) →
          exec .startLine s = .next { started.offer n.castSucc
              { body := .mark .lineStart, line := n.castSucc, bits := 0, stamp } with
            link := reply }) ∧
        (∀ earlier item later, s.intake = earlier ++ item :: later → item.line = n →
          (∀ other ∈ later, other.line ≠ n) →
          exec .startLine s = .next { started with
            intake := earlier ++ { item with marks := item.marks ++ [stamp] } :: later, link := reply }) ∧
        (∀ b, (∀ item ∈ s.intake, item.line ≠ n) → s.busy = some b → b.item.line = n →
          exec .startLine s = .next { started with
            busy := some { b with item := { b.item with marks := b.item.marks ++ [stamp] } }, link := reply })) ∧
      ((s.port n).state = .ready → (s.port n).config.role = .transmit ∨ (s.port n).config.role = .echo →
        exec .startLine s = .next { told false (s.withPort n { s.port n with
            state := .running
            t0 := some s.time.runClock
            transmitter := .free
            receiver :=
              if (s.port n).config.role = .echo then .idle (s.port n).pair.isSome else (s.port n).receiver
            comparator := if (s.port n).config.role = .echo then .clear else (s.port n).comparator }) with
          plan := s.plan.map (fun slot =>
            if slot.line = n then
              { slot with nextDue :=
                  if slot.settings.enabled then some (s.time.runClock + slot.settings.phase * 100) else none }
            else slot)
          link := reply }))

/-- R131, R132, R133, R44, R97, R6: STOP_LINE. A line above 11 or another mode is refused with RANGE, a line in FAULT
with STATE (a request that is both with RANGE, notes/assumptions/29.md); a line in OFF or READY is answered at once as it
is; a RECEIVE line goes to READY at once and its exact entries to IDLE, after expiries that waited (TagTableTimed;
notes/assumptions/9.md) or, while the Tag Table works, after that work; a transmitting line whose transmitter works
enters STOPPING and holds the executor, its slots no longer come due, and under DISCARD its send queue is emptied; one
whose transmitter is FREE with nothing to drain is READY at once. -/
def Obligations.StopLine : Prop :=
  ∀ (s : State) (r : Request) (rest : List Request), s.Offers r rest →
    (∀ number mode : Byte, 11 < number.toNat ∨ 1 < mode.toNat → r.payload = [0x12, number, mode] →
      exec .stopLine s = .next { s with link := s.link.replied r .range [] }) ∧
    ∀ (n : LineNo) (mode : StopMode), r.payload = [0x12, BitVec.ofNat 8 n.val, if mode = .drain then 0 else 1] →
      let silenced := s.plan.map fun slot =>
        if slot.line = n then { slot with nextDue := none, pending := none } else slot
      let left := if mode = .discard then [] else (s.port n).sendQueue
      let discarded := if mode = .discard then (s.port n).sendQueue.length else 0
      ((s.port n).state = .fault → exec .stopLine s = .next { s with link := s.link.replied r .state [] }) ∧
      ((s.port n).state = .off → exec .stopLine s = .next { s with link := s.link.replied r .ok [0, 0] }) ∧
      ((s.port n).state = .ready → exec .stopLine s = .next { s with link := s.link.replied r .ok [1, 0] }) ∧
      ((s.port n).state = .running → (s.port n).config.role = .receive → (s.port n).transmitter = .dormant →
        let stopped := s.withPort n { s.port n with
          state := .ready
          receiver := .dormant
          comparator := .inactive
          counters := { (s.port n).counters with
            cutWords := if (s.port n).receiver.midWord then (s.port n).counters.cutWords + 1
                        else (s.port n).counters.cutWords } }
        (s.busy = none → s.expiryWaits = false →
          exec .stopLine s = .next { stopped with
            tags := s.tags.map (fun e =>
              if e.key.line = .port n then
                { e with freshness := if e.freshness = .none then .none else .idle }
              else e)
            link := s.link.replied r .ok [1, 0] }) ∧
        (s.busy = none →
          exec .stopLine s = .next { stopped.applyLineChange (.stopped n s.time.runClock) with
            link := s.link.replied r .ok [1, 0] }) ∧
        (s.busy ≠ none →
          exec .stopLine s = .next { stopped with
            lineChanges := s.lineChanges ++ [.stopped n s.time.runClock]
            link := s.link.replied r .ok [1, 0] })) ∧
      ((s.port n).state = .running → (s.port n).config.role = .transmit ∨ (s.port n).config.role = .echo →
        ((s.port n).transmitter ≠ .free ∨ left ≠ [] →
          exec .stopLine s = .next { s.withPort n { s.port n with
              state := .stopping, sendQueue := left, stop := some ⟨mode, discarded⟩ } with
            plan := silenced
            link := { s.link with requests := rest, executing := some ⟨r, .stop n⟩ } }) ∧
        ((s.port n).transmitter = .free → left = [] →
          exec .stopLine s = .next { s.withPort n { s.port n with
              state := .ready
              sendQueue := []
              stop := none
              receiver := .dormant
              transmitter := .dormant
              comparator := .inactive
              counters := { (s.port n).counters with
                cutWords := if (s.port n).receiver.midWord then (s.port n).counters.cutWords + 1
                            else (s.port n).counters.cutWords } } with
            plan := silenced
            link := s.link.replied r .ok [1, BitVec.ofNat 8 discarded] }))

/-- R135, R123: READ_LINE answers a line's state, configuration, T0, send queue, consecutive count and ten counters, and
with its clear option sets the counters to 0 after; CLEAR_FAULT returns a line in FAULT to READY with its consecutive
count at 0 and refuses a line in another state with STATE; a line above 11 is refused with RANGE by both. The line
states and the settings, as held, stand in the codes of Table 11-5. -/
def Obligations.ReadLineAndClearFault : Prop :=
  (∀ state, lineStateByte state =
    match state with | .off => 0 | .ready => 1 | .running => 2 | .stopping => 3 | .fault => 4) ∧
  (∀ c : LineConfig, lineConfigBytes c =
    [match c.role with | .off => 0 | .receive => 1 | .transmit => 2 | .echo => 3,
      match c.rate with | .k12_5 => 0 | .k50 => 1 | .k100 => 2 | .k200 => 3,
      if c.captureErrors then 1 else 0, if c.errorNotice then 1 else 0,
      match c.missRoute with | .none => 0 | .line => 1 | .merged => 2 | .both => 3,
      match c.policy with | .planFirst => 0 | .queueFirst => 1, BitVec.ofNat 8 c.echoThreshold,
      if c.keepEcho then 1 else 0]) ∧
  ∀ (s : State) (r : Request) (rest : List Request) (clear : Bool), s.Offers r rest →
    (∀ number : Byte, 11 < number.toNat →
      (r.payload = [0x13, number, if clear then 1 else 0] →
        exec .readLine s = .next { s with link := s.link.replied r .range [] }) ∧
      (r.payload = [0x14, number] →
        exec .clearFault s = .next { s with link := s.link.replied r .range [] })) ∧
    (∀ n : LineNo,
      (r.payload = [0x13, BitVec.ofNat 8 n.val, if clear then 1 else 0] →
        exec .readLine s = .next
          { (if clear then s.withPort n { s.port n with counters := ⟨0, 0, 0, 0, 0, 0, 0, 0, 0, 0⟩ } else s) with
            link := s.link.replied r .ok
              ([lineStateByte (s.port n).state] ++ lineConfigBytes (s.port n).config ++
               [if (s.port n).t0.isSome then 1 else 0] ++ bigEndian 8 ((s.port n).t0.getD 0) ++
               [BitVec.ofNat 8 (s.port n).sendQueue.length, BitVec.ofNat 8 (s.port n).consecutive] ++
               bigEndian 4 (s.port n).counters.wordsReceived.toNat ++
               bigEndian 4 (s.port n).counters.checkErrors.toNat ++
               bigEndian 4 (s.port n).counters.lengthErrors.toNat ++
               bigEndian 4 (s.port n).counters.codeErrors.toNat ++
               bigEndian 4 (s.port n).counters.cutWords.toNat ++
               bigEndian 4 (s.port n).counters.intakeOverruns.toNat ++
               bigEndian 4 (s.port n).counters.wordsSent.toNat ++
               bigEndian 4 (s.port n).counters.echoMismatches.toNat ++
               bigEndian 4 (s.port n).counters.foreignWords.toNat ++
               bigEndian 4 (s.port n).counters.misses.toNat) }) ∧
      (r.payload = [0x14, BitVec.ofNat 8 n.val] →
        ((s.port n).state = .fault →
          exec .clearFault s = .next { s.withPort n { s.port n with state := .ready, consecutive := 0 } with
            link := s.link.replied r .ok [] }) ∧
        ((s.port n).state ≠ .fault →
          exec .clearFault s = .next { s with link := s.link.replied r .state [] })))

/-! ### The host link -/

/-- R138, R140, R141, R142: the frame receiver on one byte in HUNT, HEADER and BODY, on a byte whose stop bit is low, on
a start bit, and when 2,000 µs pass without one. A frame whose CRC disagrees is discarded and counted, and so is a good
frame whose KIND is REPLY, REPORT or undefined; a good REQUEST or ACK frame is in RequestFrameReceived, RepeatsAndBusy
and Acknowledgement. -/
def Obligations.FrameReceiver : Prop :=
  ∀ s : State, s.held = false →
    (∀ byte, s.link.receiver = .hunt →
      exec (.byteReceived byte true) s = .next
        (if byte = 0xA7 then { s with link := { s.link with receiver := .header [] s.time.runClock false } } else s)) ∧
    (∀ byte, exec (.byteReceived byte false) s = .next { s with link := { s.link with
      receiver := .hunt
      counters := { s.link.counters with byteErrors := s.link.counters.byteErrors + 1 } } }) ∧
    (∀ byte lastAt started, s.link.receiver = .header [] lastAt started →
      exec (.byteReceived byte true) s = .next (
        if 250 < byte.toNat then { s with link := { s.link with
          receiver := .hunt
          counters := { s.link.counters with lengthErrors := s.link.counters.lengthErrors + 1 } } }
        else { s with link := { s.link with receiver := .header [byte] s.time.runClock false } })) ∧
    (∀ byte length lastAt started, s.link.receiver = .header [length] lastAt started →
      exec (.byteReceived byte true) s = .next { s with link := { s.link with
        receiver := .header [length, byte] s.time.runClock false } }) ∧
    (∀ byte length kind lastAt started, s.link.receiver = .header [length, kind] lastAt started →
      exec (.byteReceived byte true) s = .next { s with link := { s.link with
        receiver := .body [length, kind, byte] s.time.runClock false } }) ∧
    (∀ byte length kind seq payload lastAt started,
      s.link.receiver = .body (length :: kind :: seq :: payload) lastAt started →
      (payload.length < length.toNat + 1 →
        exec (.byteReceived byte true) s = .next { s with link := { s.link with
          receiver := .body (length :: kind :: seq :: payload ++ [byte]) s.time.runClock false } }) ∧
      (∀ contents high, payload = contents ++ [high] → contents.length = length.toNat →
        let crc := (frameCrc (length :: kind :: seq :: contents)).toNat
        (high.toNat * 256 + byte.toNat ≠ crc →
          exec (.byteReceived byte true) s = .next { s with link := { s.link with
            receiver := .hunt
            counters := { s.link.counters with crcErrors := s.link.counters.crcErrors + 1 } } }) ∧
        (high.toNat * 256 + byte.toNat = crc → kind ≠ 1 → kind ≠ 4 →
          exec (.byteReceived byte true) s = .next { s with link := { s.link with
            receiver := .hunt
            counters := { s.link.counters with kindErrors := s.link.counters.kindErrors + 1 } } }))) ∧
    (∀ bytes lastAt started, s.link.receiver = .header bytes lastAt started →
      exec .startBit s = .next { s with link := { s.link with receiver := .header bytes lastAt true } } ∧
      exec .interByteTimeout s = .next (
        if started = false ∧ lastAt + 2000 ≤ s.time.runClock then { s with link := { s.link with
          receiver := .hunt
          counters := { s.link.counters with timeouts := s.link.counters.timeouts + 1 } } }
        else s)) ∧
    (∀ bytes lastAt started, s.link.receiver = .body bytes lastAt started →
      exec .startBit s = .next { s with link := { s.link with receiver := .body bytes lastAt true } } ∧
      exec .interByteTimeout s = .next (
        if started = false ∧ lastAt + 2000 ≤ s.time.runClock then { s with link := { s.link with
          receiver := .hunt
          counters := { s.link.counters with timeouts := s.link.counters.timeouts + 1 } } }
        else s)) ∧
    (s.link.receiver = .hunt → exec .startBit s = .next s ∧ exec .interByteTimeout s = .next s)

/-- R139, R140, R142, R143, R144: a request frame in the layout of Table 9-2, received byte by byte from HUNT, is taken
whole, whatever its SEQ and its payload of up to 250 bytes: a request that repeats no known SEQ enters the request
queue, and nothing else changes. -/
def Obligations.RequestFrameReceived : Prop :=
  ∀ (s : State) (r : Request), s.held = false → s.link.receiver = .hunt → r.payload.length ≤ 250 →
    s.link.requests.length < 4 → (∀ reply ∈ s.link.cache, reply.seq ≠ r.seq) →
    (∀ e ∈ s.link.executing, e.request.seq ≠ r.seq) → (∀ other ∈ s.link.requests, other.seq ≠ r.seq) →
    runCommands ((frameBytes kindRequest r.seq r.payload).map fun byte => .byteReceived byte true) s =
      .next { s with link := { s.link with requests := s.link.requests ++ [r] } }

/-- R143, R144, R154: a request frame whose SEQ is cached is answered with a copy of the cached reply where fewer than 7
replies are listed; one whose SEQ waits or is in execution is discarded; both count as duplicates. A new one that finds
4 waiting is refused with BUSY. -/
def Obligations.RepeatsAndBusy : Prop :=
  ∀ (s : State) (r : Request), s.held = false → s.link.receiver = .hunt → r.payload.length ≤ 250 →
    let frame := (frameBytes kindRequest r.seq r.payload).map fun byte => Instr.byteReceived byte true
    let dropped := { s.link.counters with busyDropped := s.link.counters.busyDropped + 1 }
    (∀ reply, s.link.cache.find? (fun other => other.seq == r.seq) = some reply →
      runCommands frame s = .next { s with link :=
        if s.link.replies.length < 7 then { s.link with
          replies := s.link.replies ++ [{ seq := reply.seq, payload := reply.payload, endsReset := false }]
          counters := { s.link.counters with duplicates := s.link.counters.duplicates + 1 } }
        else { s.link with counters := { dropped with duplicates := s.link.counters.duplicates + 1 } } }) ∧
    ((∀ reply ∈ s.link.cache, reply.seq ≠ r.seq) →
      (∃ e ∈ s.link.executing, e.request.seq = r.seq) ∨ (∃ other ∈ s.link.requests, other.seq = r.seq) →
      runCommands frame s = .next { s with link := { s.link with
        counters := { s.link.counters with duplicates := s.link.counters.duplicates + 1 } } }) ∧
    ((∀ reply ∈ s.link.cache, reply.seq ≠ r.seq) → (∀ e ∈ s.link.executing, e.request.seq ≠ r.seq) →
      (∀ other ∈ s.link.requests, other.seq ≠ r.seq) → s.link.requests.length = 4 →
      runCommands frame s = .next { s with link :=
        if s.link.replies.length < 7 then { s.link with
          replies := s.link.replies ++ [replyTo r .busy []]
          counters := { s.link.counters with busyRefusals := s.link.counters.busyRefusals + 1 } }
        else { s.link with counters := { dropped with busyRefusals := s.link.counters.busyRefusals + 1 } } })

/-- R149, R172: an empty payload is refused with FORMAT, an undefined kind with UNKNOWN, and every request whose payload
is not as long as Table 11-3 gives with FORMAT, whatever its fields hold; a refusal changes nothing but the host link.
R173: a clear option above 1 is refused with RANGE by each request that has one, before anything else is judged of it
(notes/assumptions/29.md). R148, R134, R146, R153: a row of the executor changes nothing while the executor holds a
request that does not wait for the Tag Table (a stop that runs, a RESET(FULL)) or one of another row, and with none held
while 8 replies are listed, while no request waits, or while the oldest one is of another row (of a malformed RESET the
row is the model's choice, notes/assumptions/13.md). Tables 11-2 and 11-3: the status codes, and the request codes with
their lengths. -/
def Obligations.UnknownAndFormat : Prop :=
  (∀ status, statusByte status = match status with
    | .ok => 0 | .busy => 1 | .unknown => 2 | .format => 3 | .range => 4 | .state => 5 | .full => 6 | .absent => 7
    | .exists => 8) ∧
  requestTable.map (fun row => (row.code.toNat, row.length)) =
    [(0x01, 1), (0x02, 1), (0x03, 2), (0x03, 2), (0x10, 10), (0x11, 2), (0x12, 3), (0x13, 3), (0x14, 2), (0x20, 14),
      (0x21, 14), (0x22, 4), (0x23, 5), (0x24, 5), (0x25, 2), (0x30, 5), (0x31, 3), (0x40, 9), (0x41, 11), (0x42, 1),
      (0x43, 1), (0x44, 2), (0x50, 19), (0x51, 18), (0x52, 6), (0x53, 3), (0x54, 4), (0x55, 83), (0x60, 4), (0x61, 1),
      (0x62, 1), (0x63, 5), (0x64, 2), (0x65, 2)] ∧
  (∀ (s : State) (c : Instr), IsRequestRow c →
    (∀ e, s.link.executing = some e → e.hold ≠ .atTagTable ∨ requestCommand e.request.payload ≠ c →
      exec c s = .next s) ∧
    (s.link.executing = none → 8 ≤ s.link.replies.length ∨ s.link.requests = [] ∨
        (∃ r rest, s.link.requests = r :: rest ∧ requestCommand r.payload ≠ c) →
      exec c s = .next s)) ∧
  ∀ (s : State) (r : Request) (rest : List Request), s.Offers r rest →
    (r.payload = [] → exec .unknownRequest s = .next { s with link := s.link.replied r .format [] }) ∧
    (∀ kind fields, r.payload = kind :: fields → (∀ row ∈ requestTable, row.code ≠ kind) →
      exec .unknownRequest s = .next { s with link := s.link.replied r .unknown [] }) ∧
    (∀ row ∈ requestTable, requestCommand r.payload = row.command → r.payload.length ≠ row.length →
      exec row.command s = .next { s with link := s.link.replied r .format [] }) ∧
    (∀ (clear a b c : Byte), 1 < clear.toNat →
      (r.payload = [0x13, a, clear] → exec .readLine s = .next { s with link := s.link.replied r .range [] }) ∧
      (r.payload = [0x31, a, clear] → exec .readQueue s = .next { s with link := s.link.replied r .range [] }) ∧
      (r.payload = [0x54, a, b, clear] → exec .readSlot s = .next { s with link := s.link.replied r .range [] }) ∧
      (r.payload = [0x23, a, b, c, clear] → s.busy = none → s.expiryWaits = false →
        exec .readTag s = .next { s with link := s.link.replied r .range [] }))

/-- R150. IDENTIFY answers the part code, the revision and the capacities of Table 0-5, the same at every call, and
changes nothing. -/
def Obligations.Identify : Prop :=
  ∀ (s : State) (r : Request) (rest : List Request), s.Offers r rest → r.payload = [0x01] →
    exec .identify s = .next { s with
      link := s.link.replied r .ok
        (bigEndian 2 6412 ++ [1, 12, 16] ++ bigEndian 2 640 ++ bigEndian 2 8192 ++ bigEndian 2 4096 ++
         bigEndian 2 384 ++ [32, 64, 8, 12, 4, 4, 8, 250]) }

/-- R151: GET_STATUS answers the state of the part as it stands, and changes nothing else. -/
def Obligations.GetStatus : Prop :=
  ∀ (s : State) (r : Request) (rest : List Request), s.Offers r rest → r.payload = [0x02] →
    exec .getStatus s = .next { s with
      link := s.link.replied r .ok
        ([match s.resetCause with | .power => 0 | .request => 1] ++
         [match s.reports.state with | .silent => 0 | .active => 1 | .stalled => 2] ++
         [BitVec.ofNat 8 s.reports.window.length, BitVec.ofNat 8 s.reports.notices.length] ++
         bigEndian 2 s.reports.noticeLoss ++
         bigEndian 4 s.link.counters.byteErrors.toNat ++ bigEndian 4 s.link.counters.timeouts.toNat ++
         bigEndian 4 s.link.counters.lengthErrors.toNat ++ bigEndian 4 s.link.counters.crcErrors.toNat ++
         bigEndian 4 s.link.counters.kindErrors.toNat ++ bigEndian 4 s.link.counters.duplicates.toNat ++
         bigEndian 4 s.link.counters.busyRefusals.toNat ++ bigEndian 4 s.link.counters.busyDropped.toNat ++
         bigEndian 4 s.reports.strays.toNat ++
         [if s.reports.state = .stalled ∨ (∃ n, (s.port n).state = .fault) then 1 else 0] ++
         (List.finRange 12).map (fun n =>
           match (s.port n).state with | .off => 0 | .ready => 1 | .running => 2 | .stopping => 3 | .fault => 4) ++
         bigEndian 2 (8192 - ((List.finRange 12).map fun n => (s.queue n.castSucc).depth).sum)) }

/-- R171. ATTN is asserted exactly while reporting is STALLED or some line is in FAULT; it is deasserted while RSTn is
low, after power-on, when RESET(FULL) takes effect and at RESET(TRAFFIC). -/
def Obligations.Attn : Prop :=
  (∀ s : State, s.attn = true ↔ s.reports.state = .stalled ∨ ∃ n, (s.port n).state = .fault) ∧
  (∀ (s t : State) (lrate : BitVec 2), exec (.powerOn lrate) s = .next t → t.attn = false) ∧
  (∀ s t : State, exec .rstnLow s = .next t → t.attn = false) ∧
  (∀ (s t : State) (r : Request), s.held = false → s.link.executing = some ⟨r, .resetDue⟩ →
    exec .resetFullTakesEffect s = .next t → t.attn = false) ∧
  (∀ (s t : State) (r : Request) (rest : List Request), s.Offers r rest → r.payload = [0x03, 0x01] →
    exec .resetTraffic s = .next t → t.attn = false) ∧
  (∀ (s t : State) (r : Request) (rest : List Request), s.Offers r rest → r.payload = [0x02] →
    exec .getStatus s = .next t → ∃ before after, t.link.replies.getLast?.map Reply.payload =
      some (before ++ (if s.attn then 1 else 0) :: after) ∧ before.length = 44 ∧ after.length = 14)

/-- R146, R147, R163, R165, R138, R174: an idle transmitter starts the oldest waiting reply, or with no reply waiting
the oldest due report while reporting is ACTIVE, which is then no longer due and starts a stopped timer; with neither,
and while a RESET(FULL) is due (notes/assumptions/18.md), it starts nothing; a frame completes when its bytes have taken
their 10 bit periods each, and not before (notes/assumptions/17.md). That the reply goes first also where a reply and a
report became ready together is the model's choice, for R147 lets either go first (notes/assumptions/4.md). HTXD is low
for a start bit, shows the eight data bits of a byte with the least significant first, and is high for the stop bit,
between frames and while RSTn is low. Notices, records and reports are laid out as in Tables 11-6 to 11-8. Table 0-3:
the rates in baud. -/
def Obligations.LinkFrames : Prop :=
  (∀ rate, baud rate = match rate with
    | .b115200 => 115200 | .b460800 => 460800 | .b921600 => 921600 | .b3000000 => 3000000) ∧
  (∀ s : State, s.held = false →
    (s.link.transmitter = none → (∀ r, s.link.executing ≠ some ⟨r, .resetDue⟩) →
      (∀ reply rest, s.link.replies = reply :: rest →
        exec .linkFrameStart s = .next { s with link := { s.link with
          replies := rest
          transmitter := some ⟨frameBytes 2 reply.seq reply.payload, s.time.runClock, reply.endsReset⟩ } }) ∧
      (∀ older report newer, s.link.replies = [] → s.reports.state = .active →
        s.reports.window = older ++ report :: newer → report.due = true → (∀ other ∈ older, other.due = false) →
        (∀ other ∈ older ++ newer, other.seq ≠ report.seq) →
        exec .linkFrameStart s = .next { s with
          link := { s.link with
            transmitter := some ⟨frameBytes 3 report.seq (
                match report.body with
                | .notices list loss => noticeReportPayload list loss
                | .data n count loss =>
                  dataReportPayload n (((s.queue n).records.drop (olderCount n older)).take count) loss),
              s.time.runClock, false⟩ }
          reports := { s.reports with
            window := older ++ { report with due := false } :: newer
            timer := some (s.reports.timer.getD (s.time.runClock + s.reports.timeout * 1000)) } }) ∧
      (s.link.replies = [] →
        s.reports.state ≠ .active ∨ (∀ report ∈ s.reports.window, report.due = false) →
        exec .linkFrameStart s = .next s)) ∧
    (∀ r, s.link.executing = some ⟨r, .resetDue⟩ → exec .linkFrameStart s = .next s) ∧
    (∀ f, s.link.transmitter = some f →
      exec .linkFrameStart s = .next s ∧
      (f.endsReset = false →
        exec .linkFrameComplete s = .next (
          if f.bytes.length * 10 * 1000000 ≤ (s.time.runClock - f.startedAt) * baud s.link.rate then
            { s with link := { s.link with transmitter := none } }
          else s)) ∧
      (∀ (k : Nat) (byte : Byte) (j : Nat), f.bytes[k]? = some byte → j < 10 →
        (10 * k + j) * 1000000 ≤ (s.time.runClock - f.startedAt) * baud s.link.rate →
        (s.time.runClock - f.startedAt) * baud s.link.rate < (10 * k + j + 1) * 1000000 →
        s.htxd = if j = 0 then false else if j = 9 then true else byte.getLsbD (j - 1)) ∧
      (f.bytes.length * 10 * 1000000 ≤ (s.time.runClock - f.startedAt) * baud s.link.rate → s.htxd = true))) ∧
  (∀ s : State, s.link.transmitter = none ∨ s.held = true → s.htxd = true) ∧
  (∀ (list : List Notice) (loss : Nat), noticeReportPayload list loss =
    2 :: BitVec.ofNat 8 list.length :: (bigEndian 2 loss ++ (list.map fun x =>
      let mismatch := fun (judgement : Judgement) (consecutive : Nat) =>
        (match judgement with
          | .matched => 0 | .different => 0x010000 | .error .check => 0x020100 | .error .length => 0x020200
          | .error .code => 0x020300 | .missing => 0x030000) + consecutive % 256
      let (code, detail) : Byte × Nat :=
        match x.body with
        | .stale leftFresh deadline => (1, (if leftFresh then 0x03000000 else 0x02000000) + deadline)
        | .freshAgain ms => (2, ms)
        | .early action interval => (3, (match action with | .keep => 0 | .drop => 0x80000000) + interval)
        | .change changed value => (4, (if changed then 0x01000000 else 0) + value.toNat)
        | .lineError kind count =>
          (5, (match kind with | .check => 0x40 | .length => 0x80 | .code => 0xC0) + min count 63)
        | .queueFull depth => (6, depth)
        | .slotMiss index age => (7, index.val * 0x10000 + age)
        | .slotDone index => (8, index.val)
        | .echoMismatch judgement consecutive => (9, mismatch judgement consecutive)
        | .lineFault stopping judgement consecutive =>
          (10, (if stopping then 0x01000000 else 0) + mismatch judgement consecutive)
        | .pulse loaded edges => (11, (if loaded then 0x80000000 else 0) + min edges 2147483647)
        | .timeAligned ms => (12, ms)
        | .armExpired ms => (13, ms)
      code :: (match x.line with | some n => BitVec.ofNat 8 n.val | none => 255) :: (bigEndian 2 x.tag.toNat ++
        bigEndian 4 detail ++ x.stamp.epoch :: bigEndian 8 x.stamp.time)).flatten)) ∧
  (∀ (stream : QueueNo) (records : List CaptureRecord) (loss : Nat), dataReportPayload stream records loss =
    1 :: BitVec.ofNat 8 stream.val :: BitVec.ofNat 8 records.length :: (bigEndian 4 loss ++ (records.map fun r =>
      let (kind, flags, detail) : Byte × Byte × Byte :=
        match r.body with
        | .word f => (1, (if f.early then 1 else 0) ||| (if f.first then 2 else 0) ||| (if f.changed then 4 else 0) |||
            (if f.any then 8 else 0) ||| (if f.miss then 16 else 0) ||| (if f.own then 32 else 0), 0)
        | .errorWord error count =>
          (2, 0, (match error with | .check => 0x40 | .length => 0x80 | .code => 0xC0) + BitVec.ofNat 8 (min count 63))
        | .mark reason => (3, 0, match reason with | .timeSet => 1 | .timeAligned => 2 | .lineStart => 3)
      kind :: flags :: BitVec.ofNat 8 r.line.val :: detail :: (bigEndian 2 (lineTag r.bits).toNat ++
        bigEndian 3 (lineValue r.bits).toNat ++ BitVec.ofNat 8 (lineCheck r.bits).toNat :: r.stamp.epoch ::
        bigEndian 8 r.stamp.time)).flatten))

/-! ### The report unit -/

/-- R160 to R162, R72, R156: while ACTIVE with a free slot, a formation forms a notice report of up to 12 notices and the
pending loss, or with no notice to form a data report of the first ready stream after the one last served, with up to
its batch of waiting records and the queue's pending loss; otherwise nothing is formed. -/
def Obligations.ReportFormation : Prop :=
  ∀ s : State, s.held = false →
    (s.reports.state = .active → s.reports.window.length < 8 →
      (s.reports.notices ≠ [] ∨ 0 < s.reports.noticeLoss →
        exec .reportFormation s = .next { s with reports := { s.reports with
          notices := s.reports.notices.drop 12
          noticeLoss := 0
          window := s.reports.window ++
            [⟨s.reports.nextSeq, .notices (s.reports.notices.take 12) s.reports.noticeLoss, true⟩]
          nextSeq := s.reports.nextSeq + 1 } }) ∧
      (∀ (n : QueueNo) (earlier later : List QueueNo), s.reports.notices = [] → s.reports.noticeLoss = 0 →
        servingOrder s.reports.lastServed = earlier ++ n :: later → (∀ m ∈ earlier, s.streamReady m = false) →
        s.streamReady n = true →
        let q := s.queue n
        let count := min (s.stream n).batch q.waiting
        let formed := { q with inFlight := q.inFlight + count, pendingLoss := 0 }
        ∃ t, exec .reportFormation s = .next t ∧
          t = { s with
            queues := t.queues
            reports := { s.reports with
              window := s.reports.window ++ [⟨s.reports.nextSeq, .data n count q.pendingLoss, true⟩]
              nextSeq := s.reports.nextSeq + 1
              lastServed := n
              streams := t.reports.streams } } ∧
          t.queue n = formed ∧ (∀ m, m ≠ n → t.queue m = s.queue m ∧ t.stream m = s.stream m) ∧
          t.stream n = { s.stream n with
            flushPending := false
            holdStart := if count < q.waiting then some s.time.runClock else none })) ∧
    (s.reports.state ≠ .active ∨ 8 ≤ s.reports.window.length ∨
        (s.reports.notices = [] ∧ s.reports.noticeLoss = 0 ∧ ∀ n, s.streamReady n = false) →
      exec .reportFormation s = .next s)

/-- R164, R165, R69, R74, R142, R172: an ACK frame, received byte by byte with whatever payload, acknowledges the report
its SEQ names and every older one: they leave the window, the records of the data reports leave the front of their
queues, a stall ends, the retry count becomes 0 and the timer restarts or stops; an ACK that names no report is counted
as a stray. -/
def Obligations.Acknowledgement : Prop :=
  ∀ (s : State) (seq : Byte) (ignored : List Byte), s.held = false → s.link.receiver = .hunt → ignored.length ≤ 250 →
    let frame := (frameBytes kindAck seq ignored).map fun byte => Instr.byteReceived byte true
    ((∀ report ∈ s.reports.window, report.seq ≠ seq) →
      runCommands frame s = .next { s with reports := { s.reports with strays := s.reports.strays + 1 } }) ∧
    (∀ (older newer : List Report) (report : Report), s.reports.window = older ++ report :: newer →
      report.seq = seq → (∀ other ∈ older, other.seq ≠ seq) →
      (∀ n, olderCount n (older ++ [report]) ≤ (s.queue n).inFlight ∧
        (s.queue n).inFlight ≤ (s.queue n).records.length) →
      ∃ t, runCommands frame s = .next t ∧
        t = { s with
          queues := t.queues
          reports := { s.reports with
            window := newer
            retries := 0
            timer := if s.reports.state = .silent ∨ newer = [] then none
                     else some (s.time.runClock + s.reports.timeout * 1000)
            state := if s.reports.state = .stalled then .active else s.reports.state
            streams := t.reports.streams } } ∧
        ∀ n,
          let count := olderCount n (older ++ [report])
          ((∃ other ∈ older ++ [report], ∃ k loss, other.body = .data n k loss) →
            t.stream n = { s.stream n with holdStart :=
              if (t.queue n).hasNews then some ((s.stream n).holdStart.getD s.time.runClock) else none }) ∧
          ((∀ other ∈ older ++ [report], ∀ k loss, other.body ≠ .data n k loss) → t.stream n = s.stream n) ∧
          t.queue n = { s.queue n with
            records := (s.queue n).records.drop count
            inFlight := (s.queue n).inFlight - count
            acknowledged := (s.queue n).acknowledged + BitVec.ofNat 32 count
            armed := (s.queue n).armed ||
              (decide (0 < count) && decide ((s.queue n).records.length - count ≤ (s.queue n).depth / 2)) })

/-- R166: when the retransmission timer has run out while ACTIVE, every report is due again and the retry count rises,
or at the retry limit reporting stalls with no report due; before that nothing happens. -/
def Obligations.RetransmitTimeout : Prop :=
  ∀ (s : State) (moment : Nat), s.held = false → s.reports.timer = some moment →
    (s.reports.state = .active → moment ≤ s.time.runClock →
      exec .retransmitTimeout s = .next { s with
        reports :=
          if s.reports.retries < s.reports.retryLimit then { s.reports with
            window := s.reports.window.map (fun report => { report with due := true })
            retries := s.reports.retries + 1
            timer := none }
          else { s.reports with
            window := s.reports.window.map (fun report => { report with due := false })
            state := .stalled
            timer := none } }) ∧
    (s.time.runClock < moment ∨ s.reports.state ≠ .active → exec .retransmitTimeout s = .next s)

/-- R168, R169: START_REPORTS in SILENT takes its timeout and retry limit, with their defaults at FFFFh and FFh, and
makes every report due; STOP_REPORTS makes reporting SILENT with no report due; RESYNC discards the window, returns its
notices to the front of the notice queue and its losses and records to their queues, and numbers from 0. The model's
choices: START_REPORTS with a value out of range is refused with RANGE in every reporting state
(notes/assumptions/29.md), and the formation that R168 and R169 resume is a happening of its own
(notes/assumptions/4.md). -/
def Obligations.ReportingControl : Prop :=
  ∀ (s : State) (r : Request) (rest : List Request), s.Offers r rest →
    (∀ (timeout limit : Nat), timeout < 65536 → limit < 256 →
      r.payload = 0x60 :: (bigEndian 2 timeout ++ [BitVec.ofNat 8 limit]) →
      let wanted := if timeout = 65535 then 200 else timeout
      let most := if limit = 255 then 3 else limit
      (10 ≤ wanted → wanted ≤ 2000 → 1 ≤ most → most ≤ 8 →
        exec .startReports s = .next (
          if s.reports.state = .silent then { s with
            reports := { s.reports with
              timeout := wanted, retryLimit := most, state := .active, retries := 0
              window := s.reports.window.map (fun report => { report with due := true }) }
            link := s.link.replied r .ok [BitVec.ofNat 8 s.reports.window.length] }
          else { s with link := s.link.replied r .state [] })) ∧
      (wanted < 10 ∨ 2000 < wanted ∨ most < 1 ∨ 8 < most →
        exec .startReports s = .next { s with link := s.link.replied r .range [] })) ∧
    (r.payload = [0x61] →
      exec .stopReports s = .next { s with
        reports := { s.reports with
          state := .silent, timer := none
          window := s.reports.window.map (fun report => { report with due := false }) }
        link := s.link.replied r .ok [] }) ∧
    (s.QueuesSound → r.payload = [0x62] →
      let returned := (s.reports.window.map fun report =>
        match report.body with | .notices list _ => list | .data _ _ _ => []).flatten ++ s.reports.notices
      let losses := (s.reports.window.map fun report =>
        match report.body with | .notices _ loss => loss | .data _ _ _ => 0).sum
      ∃ t, exec .resync s = .next t ∧
        t = { s with
          queues := t.queues
          reports := { s.reports with
            notices := returned.take 64
            noticeLoss := min 65535 (s.reports.noticeLoss + (losses + (returned.length - 64)))
            window := [], nextSeq := 0, retries := 0, timer := none
            state := if s.reports.state = .stalled then .active else s.reports.state
            streams := t.reports.streams }
          link := s.link.replied r .ok [BitVec.ofNat 8 s.reports.window.length] } ∧
        ∀ n,
          let lost := (s.reports.window.map fun report =>
            match report.body with
            | .notices _ _ => 0
            | .data m _ loss => if m = n then loss else 0).sum
          ((∃ report ∈ s.reports.window, ∃ count loss, report.body = .data n count loss) →
            t.queue n = { s.queue n with
              inFlight := 0, pendingLoss := min 4294967295 ((s.queue n).pendingLoss + lost) } ∧
            t.stream n = { s.stream n with holdStart :=
              if (t.queue n).hasNews then some ((s.stream n).holdStart.getD s.time.runClock) else none }) ∧
          ((∀ report ∈ s.reports.window, ∀ count loss, report.body ≠ .data n count loss) →
            t.queue n = s.queue n ∧ t.stream n = s.stream n))

/-- R158, R159: SUBSCRIBE sets a stream's batch and hold, with their defaults at FFh and FFFFh, UNSUBSCRIBE clears its
subscription and its flush, and FLUSH marks the named streams that are subscribed and have news; a stream number above
12, but for ALL in FLUSH, is refused with RANGE. R156, R157: a stream is ready while subscribed with a batch waiting,
with its hold run out over news, or with news and a flush pending; its hold has run out from hold start plus hold on.
That this is read from the queue as it stands, also after a depth change, is the model's choice
(notes/assumptions/30.md). HOLD_RUN_OUT itself changes nothing, for that moment is read from the run clock
(notes/assumptions/21.md). -/
def Obligations.StreamRequestsAndReadiness : Prop :=
  (∀ (s : State) (r : Request) (rest : List Request) (number : Byte), s.Offers r rest → 12 < number.toNat →
    (∀ fields : List Byte, fields.length = 3 → r.payload = 0x63 :: number :: fields →
      exec .subscribe s = .next { s with link := s.link.replied r .range [] }) ∧
    (r.payload = [0x64, number] → exec .unsubscribe s = .next { s with link := s.link.replied r .range [] }) ∧
    (number.toNat < 255 → r.payload = [0x65, number] →
      exec .flush s = .next { s with link := s.link.replied r .range [] })) ∧
  (∀ (s : State) (r : Request) (rest : List Request) (n : QueueNo), s.Offers r rest →
    (∀ (batch hold : Nat), batch < 256 → hold < 65536 →
      r.payload = 0x63 :: BitVec.ofNat 8 n.val :: BitVec.ofNat 8 batch :: bigEndian 2 hold →
      let wanted := if batch = 255 then 12 else batch
      let ms := if hold = 65535 then 50 else hold
      exec .subscribe s = .next (
        if 1 ≤ wanted ∧ wanted ≤ 12 ∧ ms ≤ 1000 then
          { s.withStream n { s.stream n with subscribed := true, batch := wanted, hold := ms } with
            link := s.link.replied r .ok [] }
        else { s with link := s.link.replied r .range [] })) ∧
    (r.payload = [0x64, BitVec.ofNat 8 n.val] →
      exec .unsubscribe s = .next
        { s.withStream n { s.stream n with subscribed := false, flushPending := false } with
          link := s.link.replied r .ok [] }) ∧
    (r.payload = [0x65, BitVec.ofNat 8 n.val] →
      exec .flush s = .next (
        if (s.stream n).subscribed = false then { s with link := s.link.replied r .state [] }
        else if 0 < (s.queue n).waiting ∨ 0 < (s.queue n).pendingLoss then
          { s.withStream n { s.stream n with flushPending := true } with link := s.link.replied r .ok [1] }
        else { s with link := s.link.replied r .ok [0] })) ∧
    (r.payload = [0x65, 255] →
      ∃ t, exec .flush s = .next t ∧
        t = { s with
          reports := { s.reports with streams := t.reports.streams }
          link := s.link.replied r .ok [BitVec.ofNat 8 ((List.finRange 13).countP fun m =>
            (s.stream m).subscribed && (s.queue m).hasNews)] } ∧
        ∀ m, t.stream m = { s.stream m with
          flushPending := (s.stream m).flushPending || ((s.stream m).subscribed && (s.queue m).hasNews) })) ∧
  (∀ (s : State) (n : QueueNo),
    exec (.holdRunOut n) s = .next s ∧
    (s.streamReady n = true ↔
      (s.stream n).subscribed = true ∧
        ((s.stream n).batch ≤ (s.queue n).waiting ∨
         (0 < (s.queue n).waiting ∨ 0 < (s.queue n).pendingLoss) ∧
           ((s.stream n).flushPending = true ∨
            ∃ start ∈ (s.stream n).holdStart, start + (s.stream n).hold * 1000 ≤ s.time.runClock))))

/-! ### Codes -/

/-- R2: the check of a word is the remainder of its 36-bit message polynomial times x^4 divided by x^4 + x + 1, over
the field of two elements; and a check computed from the check of two words is their exclusive OR (the note under
Table 1-2). R139: the CRC of bytes is the remainder, divided by x^16 + x^12 + x^5 + 1, of their message polynomial times
x^16 with 1 added to each of its 16 highest places, as the register's start at FFFFh adds them. R139, R172, Table 9-2:
a frame is SYNC, LENGTH, KIND, SEQ, the payload and the CRC of what stands between SYNC and it; a number stands most
significant byte first in its bytes. -/
def Obligations.CheckIsRemainder : Prop :=
  (∀ (tag : Tag) (value : Value),
    ((∑ k : Fin 36, if (tag ++ value).getMsbD k then (Polynomial.X : Polynomial (ZMod 2)) ^ (35 - k.val) else 0) *
        Polynomial.X ^ 4) %ₘ (Polynomial.X ^ 4 + Polynomial.X + 1) =
      ∑ k : Fin 4, if (checkOf tag value).getMsbD k then Polynomial.X ^ (3 - k.val) else 0) ∧
  (∀ (tag tag' : Tag) (value value' : Value),
    checkOf (tag ^^^ tag') (value ^^^ value') = checkOf tag value ^^^ checkOf tag' value') ∧
  (∀ bytes : List Byte,
    let message : Polynomial (ZMod 2) := ∑ i : Fin bytes.length, ∑ k : Fin 8,
      if bytes[i].getMsbD k then Polynomial.X ^ (8 * (bytes.length - 1 - i.val) + (7 - k.val)) else 0
    (message * Polynomial.X ^ 16 + (∑ k : Fin 16, Polynomial.X ^ k.val) * Polynomial.X ^ (8 * bytes.length)) %ₘ
        (Polynomial.X ^ 16 + Polynomial.X ^ 12 + Polynomial.X ^ 5 + 1) =
      ∑ k : Fin 16, if (frameCrc bytes).getMsbD k then Polynomial.X ^ (15 - k.val) else 0) ∧
  (∀ (kind seq : Byte) (payload : List Byte),
    frameBytes kind seq payload = 0xA7 :: BitVec.ofNat 8 payload.length :: kind :: seq :: (payload ++
      bigEndian 2 (frameCrc (BitVec.ofNat 8 payload.length :: kind :: seq :: payload)).toNat)) ∧
  (∀ n x : Nat, (bigEndian n x).length = n ∧
    (bigEndian n x).foldl (fun sum byte => sum * 256 + byte.toNat) 0 = x % 256 ^ n)

/-! ### What every step keeps -/

/-- A step keeps the accounting of every queue and stream (R57, R58, R68, R71, R72, R156, R158). -/
def Obligations.StepKeepsQueues : Prop :=
  ∀ s t : State, s.QueuesSound → step s = .next t → t.QueuesSound

/-- A step keeps the capacities of Table 0-5 that State.Bounded names: intake items, Tag Table entries, plan slots, send
queue words, notices, reports in the window, records or notices in each, waiting requests, cached replies and listed
replies; with them a batch of at most 12, a notice pending loss of 16 bits, and the reply list's place for the executor
(R93, R144, R145, R148, R155, R158, R161). The depths of the queues and the pool are in StepKeepsQueues, and the largest
payload a frame may have on reception is in FrameReceiver. -/
def Obligations.StepKeepsBounds : Prop :=
  ∀ s t : State, s.Bounded → step s = .next t → t.Bounded

/-- A step keeps line state, role, receiver, transmitter, comparator and stop in agreement (R5, R115, R121, R125,
R131). -/
def Obligations.StepKeepsLines : Prop :=
  ∀ s t : State, s.LinesSound → step s = .next t → t.LinesSound

/-- A step keeps the plan in index order, its settings in range, and due times and pending instances only where a slot
can come due (R93 to R98). -/
def Obligations.StepKeepsPlan : Prop :=
  ∀ s t : State, s.PlanSound → step s = .next t → t.PlanSound

/-- A step keeps the Tag Table in listing order and each entry's state in agreement with its settings, and monitored
entries to lines that are RUNNING with role RECEIVE, up to line changes that wait for the Tag Table (R19, R20, R21, R28,
R41, R43, R44). The lines' own agreement, StepKeepsLines, is a premise: the state of a line that no run reaches could
fault. -/
def Obligations.StepKeepsTags : Prop :=
  ∀ s t : State, s.LinesSound → s.TagsSound → step s = .next t → t.TagsSound

/-- A step keeps the window's numbering, its due reports and timer to ACTIVE reporting, and the records in flight to the
window's data reports (R68, R160, R163, R165, R166). -/
def Obligations.StepKeepsWindow : Prop :=
  ∀ s t : State, s.WindowSound → step s = .next t → t.WindowSound

/-- After reset every one of these holds. -/
def Obligations.InvariantsAtReset : Prop :=
  State.reset.QueuesSound ∧ State.reset.Bounded ∧ State.reset.LinesSound ∧ State.reset.PlanSound ∧
    State.reset.TagsSound ∧ State.reset.WindowSound

end Statements
end

