-- ==== Sys2Proof/Laws/State.lean ====
section
/-! SUPPORT. What each plain update of the state leaves, one lemma per field, and what it writes. No later proof unfolds
a record update. -/

namespace Sys2Proof.Laws

-- One theorem after another: elaborating them all at once costs a thread and its stack for each.
set_option Elab.async false

open Sys2Proof.Machine

variable (s : State)

/-! ### What an update leaves -/

@[simp] theorem withPort_held (n : LineNo) (p : Port) : (s.withPort n p).held = s.held := rfl
@[simp] theorem withPort_resetCause (n : LineNo) (p : Port) : (s.withPort n p).resetCause = s.resetCause := rfl
@[simp] theorem withPort_time (n : LineNo) (p : Port) : (s.withPort n p).time = s.time := rfl
@[simp] theorem withPort_intake (n : LineNo) (p : Port) : (s.withPort n p).intake = s.intake := rfl
@[simp] theorem withPort_busy (n : LineNo) (p : Port) : (s.withPort n p).busy = s.busy := rfl
@[simp] theorem withPort_lineChanges (n : LineNo) (p : Port) : (s.withPort n p).lineChanges = s.lineChanges := rfl
@[simp] theorem withPort_tags (n : LineNo) (p : Port) : (s.withPort n p).tags = s.tags := rfl
@[simp] theorem withPort_queues (n : LineNo) (p : Port) : (s.withPort n p).queues = s.queues := rfl
@[simp] theorem withPort_plan (n : LineNo) (p : Port) : (s.withPort n p).plan = s.plan := rfl
@[simp] theorem withPort_link (n : LineNo) (p : Port) : (s.withPort n p).link = s.link := rfl
@[simp] theorem withPort_reports (n : LineNo) (p : Port) : (s.withPort n p).reports = s.reports := rfl
@[simp] theorem withPort_pending (n : LineNo) (p : Port) : (s.withPort n p).pending = s.pending := rfl

@[simp] theorem mapPort_held (n : LineNo) (f : Port → Port) : (s.mapPort n f).held = s.held := rfl
@[simp] theorem mapPort_resetCause (n : LineNo) (f : Port → Port) : (s.mapPort n f).resetCause = s.resetCause := rfl
@[simp] theorem mapPort_time (n : LineNo) (f : Port → Port) : (s.mapPort n f).time = s.time := rfl
@[simp] theorem mapPort_intake (n : LineNo) (f : Port → Port) : (s.mapPort n f).intake = s.intake := rfl
@[simp] theorem mapPort_busy (n : LineNo) (f : Port → Port) : (s.mapPort n f).busy = s.busy := rfl
@[simp] theorem mapPort_lineChanges (n : LineNo) (f : Port → Port) : (s.mapPort n f).lineChanges = s.lineChanges := rfl
@[simp] theorem mapPort_tags (n : LineNo) (f : Port → Port) : (s.mapPort n f).tags = s.tags := rfl
@[simp] theorem mapPort_queues (n : LineNo) (f : Port → Port) : (s.mapPort n f).queues = s.queues := rfl
@[simp] theorem mapPort_plan (n : LineNo) (f : Port → Port) : (s.mapPort n f).plan = s.plan := rfl
@[simp] theorem mapPort_link (n : LineNo) (f : Port → Port) : (s.mapPort n f).link = s.link := rfl
@[simp] theorem mapPort_reports (n : LineNo) (f : Port → Port) : (s.mapPort n f).reports = s.reports := rfl
@[simp] theorem mapPort_pending (n : LineNo) (f : Port → Port) : (s.mapPort n f).pending = s.pending := rfl

@[simp] theorem countLine_held (n : LineNo) (f : LineCounters → LineCounters) : (s.countLine n f).held = s.held := rfl
@[simp] theorem countLine_resetCause (n : LineNo) (f : LineCounters → LineCounters) : (s.countLine n f).resetCause = s.resetCause := rfl
@[simp] theorem countLine_time (n : LineNo) (f : LineCounters → LineCounters) : (s.countLine n f).time = s.time := rfl
@[simp] theorem countLine_intake (n : LineNo) (f : LineCounters → LineCounters) : (s.countLine n f).intake = s.intake := rfl
@[simp] theorem countLine_busy (n : LineNo) (f : LineCounters → LineCounters) : (s.countLine n f).busy = s.busy := rfl
@[simp] theorem countLine_lineChanges (n : LineNo) (f : LineCounters → LineCounters) : (s.countLine n f).lineChanges = s.lineChanges := rfl
@[simp] theorem countLine_tags (n : LineNo) (f : LineCounters → LineCounters) : (s.countLine n f).tags = s.tags := rfl
@[simp] theorem countLine_queues (n : LineNo) (f : LineCounters → LineCounters) : (s.countLine n f).queues = s.queues := rfl
@[simp] theorem countLine_plan (n : LineNo) (f : LineCounters → LineCounters) : (s.countLine n f).plan = s.plan := rfl
@[simp] theorem countLine_link (n : LineNo) (f : LineCounters → LineCounters) : (s.countLine n f).link = s.link := rfl
@[simp] theorem countLine_reports (n : LineNo) (f : LineCounters → LineCounters) : (s.countLine n f).reports = s.reports := rfl
@[simp] theorem countLine_pending (n : LineNo) (f : LineCounters → LineCounters) : (s.countLine n f).pending = s.pending := rfl

@[simp] theorem withStream_held (n : QueueNo) (t : StreamState) : (s.withStream n t).held = s.held := rfl
@[simp] theorem withStream_resetCause (n : QueueNo) (t : StreamState) : (s.withStream n t).resetCause = s.resetCause := rfl
@[simp] theorem withStream_time (n : QueueNo) (t : StreamState) : (s.withStream n t).time = s.time := rfl
@[simp] theorem withStream_ports (n : QueueNo) (t : StreamState) : (s.withStream n t).ports = s.ports := rfl
@[simp] theorem withStream_intake (n : QueueNo) (t : StreamState) : (s.withStream n t).intake = s.intake := rfl
@[simp] theorem withStream_busy (n : QueueNo) (t : StreamState) : (s.withStream n t).busy = s.busy := rfl
@[simp] theorem withStream_lineChanges (n : QueueNo) (t : StreamState) : (s.withStream n t).lineChanges = s.lineChanges := rfl
@[simp] theorem withStream_tags (n : QueueNo) (t : StreamState) : (s.withStream n t).tags = s.tags := rfl
@[simp] theorem withStream_queues (n : QueueNo) (t : StreamState) : (s.withStream n t).queues = s.queues := rfl
@[simp] theorem withStream_plan (n : QueueNo) (t : StreamState) : (s.withStream n t).plan = s.plan := rfl
@[simp] theorem withStream_link (n : QueueNo) (t : StreamState) : (s.withStream n t).link = s.link := rfl
@[simp] theorem withStream_pending (n : QueueNo) (t : StreamState) : (s.withStream n t).pending = s.pending := rfl

@[simp] theorem withQueue_held (n : QueueNo) (q : CaptureQueue) : (s.withQueue n q).held = s.held := rfl
@[simp] theorem withQueue_resetCause (n : QueueNo) (q : CaptureQueue) : (s.withQueue n q).resetCause = s.resetCause := rfl
@[simp] theorem withQueue_time (n : QueueNo) (q : CaptureQueue) : (s.withQueue n q).time = s.time := rfl
@[simp] theorem withQueue_ports (n : QueueNo) (q : CaptureQueue) : (s.withQueue n q).ports = s.ports := rfl
@[simp] theorem withQueue_intake (n : QueueNo) (q : CaptureQueue) : (s.withQueue n q).intake = s.intake := rfl
@[simp] theorem withQueue_busy (n : QueueNo) (q : CaptureQueue) : (s.withQueue n q).busy = s.busy := rfl
@[simp] theorem withQueue_lineChanges (n : QueueNo) (q : CaptureQueue) : (s.withQueue n q).lineChanges = s.lineChanges := rfl
@[simp] theorem withQueue_tags (n : QueueNo) (q : CaptureQueue) : (s.withQueue n q).tags = s.tags := rfl
@[simp] theorem withQueue_plan (n : QueueNo) (q : CaptureQueue) : (s.withQueue n q).plan = s.plan := rfl
@[simp] theorem withQueue_link (n : QueueNo) (q : CaptureQueue) : (s.withQueue n q).link = s.link := rfl
@[simp] theorem withQueue_pending (n : QueueNo) (q : CaptureQueue) : (s.withQueue n q).pending = s.pending := rfl

@[simp] theorem withEntry_held (e : Entry) : (s.withEntry e).held = s.held := rfl
@[simp] theorem withEntry_resetCause (e : Entry) : (s.withEntry e).resetCause = s.resetCause := rfl
@[simp] theorem withEntry_time (e : Entry) : (s.withEntry e).time = s.time := rfl
@[simp] theorem withEntry_ports (e : Entry) : (s.withEntry e).ports = s.ports := rfl
@[simp] theorem withEntry_intake (e : Entry) : (s.withEntry e).intake = s.intake := rfl
@[simp] theorem withEntry_busy (e : Entry) : (s.withEntry e).busy = s.busy := rfl
@[simp] theorem withEntry_lineChanges (e : Entry) : (s.withEntry e).lineChanges = s.lineChanges := rfl
@[simp] theorem withEntry_queues (e : Entry) : (s.withEntry e).queues = s.queues := rfl
@[simp] theorem withEntry_plan (e : Entry) : (s.withEntry e).plan = s.plan := rfl
@[simp] theorem withEntry_link (e : Entry) : (s.withEntry e).link = s.link := rfl
@[simp] theorem withEntry_reports (e : Entry) : (s.withEntry e).reports = s.reports := rfl
@[simp] theorem withEntry_pending (e : Entry) : (s.withEntry e).pending = s.pending := rfl

@[simp] theorem mapEntriesOf_held (n : LineNo) (f : Entry → Entry) : (s.mapEntriesOf n f).held = s.held := rfl
@[simp] theorem mapEntriesOf_resetCause (n : LineNo) (f : Entry → Entry) : (s.mapEntriesOf n f).resetCause = s.resetCause := rfl
@[simp] theorem mapEntriesOf_time (n : LineNo) (f : Entry → Entry) : (s.mapEntriesOf n f).time = s.time := rfl
@[simp] theorem mapEntriesOf_ports (n : LineNo) (f : Entry → Entry) : (s.mapEntriesOf n f).ports = s.ports := rfl
@[simp] theorem mapEntriesOf_intake (n : LineNo) (f : Entry → Entry) : (s.mapEntriesOf n f).intake = s.intake := rfl
@[simp] theorem mapEntriesOf_busy (n : LineNo) (f : Entry → Entry) : (s.mapEntriesOf n f).busy = s.busy := rfl
@[simp] theorem mapEntriesOf_lineChanges (n : LineNo) (f : Entry → Entry) : (s.mapEntriesOf n f).lineChanges = s.lineChanges := rfl
@[simp] theorem mapEntriesOf_queues (n : LineNo) (f : Entry → Entry) : (s.mapEntriesOf n f).queues = s.queues := rfl
@[simp] theorem mapEntriesOf_plan (n : LineNo) (f : Entry → Entry) : (s.mapEntriesOf n f).plan = s.plan := rfl
@[simp] theorem mapEntriesOf_link (n : LineNo) (f : Entry → Entry) : (s.mapEntriesOf n f).link = s.link := rfl
@[simp] theorem mapEntriesOf_reports (n : LineNo) (f : Entry → Entry) : (s.mapEntriesOf n f).reports = s.reports := rfl
@[simp] theorem mapEntriesOf_pending (n : LineNo) (f : Entry → Entry) : (s.mapEntriesOf n f).pending = s.pending := rfl

@[simp] theorem withSlot_held (slot : Slot) : (s.withSlot slot).held = s.held := rfl
@[simp] theorem withSlot_resetCause (slot : Slot) : (s.withSlot slot).resetCause = s.resetCause := rfl
@[simp] theorem withSlot_time (slot : Slot) : (s.withSlot slot).time = s.time := rfl
@[simp] theorem withSlot_ports (slot : Slot) : (s.withSlot slot).ports = s.ports := rfl
@[simp] theorem withSlot_intake (slot : Slot) : (s.withSlot slot).intake = s.intake := rfl
@[simp] theorem withSlot_busy (slot : Slot) : (s.withSlot slot).busy = s.busy := rfl
@[simp] theorem withSlot_lineChanges (slot : Slot) : (s.withSlot slot).lineChanges = s.lineChanges := rfl
@[simp] theorem withSlot_tags (slot : Slot) : (s.withSlot slot).tags = s.tags := rfl
@[simp] theorem withSlot_queues (slot : Slot) : (s.withSlot slot).queues = s.queues := rfl
@[simp] theorem withSlot_link (slot : Slot) : (s.withSlot slot).link = s.link := rfl
@[simp] theorem withSlot_reports (slot : Slot) : (s.withSlot slot).reports = s.reports := rfl
@[simp] theorem withSlot_pending (slot : Slot) : (s.withSlot slot).pending = s.pending := rfl

@[simp] theorem stopSlots_held (n : LineNo) : (s.stopSlots n).held = s.held := rfl
@[simp] theorem stopSlots_resetCause (n : LineNo) : (s.stopSlots n).resetCause = s.resetCause := rfl
@[simp] theorem stopSlots_time (n : LineNo) : (s.stopSlots n).time = s.time := rfl
@[simp] theorem stopSlots_ports (n : LineNo) : (s.stopSlots n).ports = s.ports := rfl
@[simp] theorem stopSlots_intake (n : LineNo) : (s.stopSlots n).intake = s.intake := rfl
@[simp] theorem stopSlots_busy (n : LineNo) : (s.stopSlots n).busy = s.busy := rfl
@[simp] theorem stopSlots_lineChanges (n : LineNo) : (s.stopSlots n).lineChanges = s.lineChanges := rfl
@[simp] theorem stopSlots_tags (n : LineNo) : (s.stopSlots n).tags = s.tags := rfl
@[simp] theorem stopSlots_queues (n : LineNo) : (s.stopSlots n).queues = s.queues := rfl
@[simp] theorem stopSlots_link (n : LineNo) : (s.stopSlots n).link = s.link := rfl
@[simp] theorem stopSlots_reports (n : LineNo) : (s.stopSlots n).reports = s.reports := rfl
@[simp] theorem stopSlots_pending (n : LineNo) : (s.stopSlots n).pending = s.pending := rfl

@[simp] theorem startSlots_held (n : LineNo) : (s.startSlots n).held = s.held := rfl
@[simp] theorem startSlots_resetCause (n : LineNo) : (s.startSlots n).resetCause = s.resetCause := rfl
@[simp] theorem startSlots_time (n : LineNo) : (s.startSlots n).time = s.time := rfl
@[simp] theorem startSlots_ports (n : LineNo) : (s.startSlots n).ports = s.ports := rfl
@[simp] theorem startSlots_intake (n : LineNo) : (s.startSlots n).intake = s.intake := rfl
@[simp] theorem startSlots_busy (n : LineNo) : (s.startSlots n).busy = s.busy := rfl
@[simp] theorem startSlots_lineChanges (n : LineNo) : (s.startSlots n).lineChanges = s.lineChanges := rfl
@[simp] theorem startSlots_tags (n : LineNo) : (s.startSlots n).tags = s.tags := rfl
@[simp] theorem startSlots_queues (n : LineNo) : (s.startSlots n).queues = s.queues := rfl
@[simp] theorem startSlots_link (n : LineNo) : (s.startSlots n).link = s.link := rfl
@[simp] theorem startSlots_reports (n : LineNo) : (s.startSlots n).reports = s.reports := rfl
@[simp] theorem startSlots_pending (n : LineNo) : (s.startSlots n).pending = s.pending := rfl

@[simp] theorem withReceiver_held (r : FrameReceiver) : (s.withReceiver r).held = s.held := rfl
@[simp] theorem withReceiver_resetCause (r : FrameReceiver) : (s.withReceiver r).resetCause = s.resetCause := rfl
@[simp] theorem withReceiver_time (r : FrameReceiver) : (s.withReceiver r).time = s.time := rfl
@[simp] theorem withReceiver_ports (r : FrameReceiver) : (s.withReceiver r).ports = s.ports := rfl
@[simp] theorem withReceiver_intake (r : FrameReceiver) : (s.withReceiver r).intake = s.intake := rfl
@[simp] theorem withReceiver_busy (r : FrameReceiver) : (s.withReceiver r).busy = s.busy := rfl
@[simp] theorem withReceiver_lineChanges (r : FrameReceiver) : (s.withReceiver r).lineChanges = s.lineChanges := rfl
@[simp] theorem withReceiver_tags (r : FrameReceiver) : (s.withReceiver r).tags = s.tags := rfl
@[simp] theorem withReceiver_queues (r : FrameReceiver) : (s.withReceiver r).queues = s.queues := rfl
@[simp] theorem withReceiver_plan (r : FrameReceiver) : (s.withReceiver r).plan = s.plan := rfl
@[simp] theorem withReceiver_reports (r : FrameReceiver) : (s.withReceiver r).reports = s.reports := rfl
@[simp] theorem withReceiver_pending (r : FrameReceiver) : (s.withReceiver r).pending = s.pending := rfl

@[simp] theorem countLink_held (f : LinkCounters → LinkCounters) : (s.countLink f).held = s.held := rfl
@[simp] theorem countLink_resetCause (f : LinkCounters → LinkCounters) : (s.countLink f).resetCause = s.resetCause := rfl
@[simp] theorem countLink_time (f : LinkCounters → LinkCounters) : (s.countLink f).time = s.time := rfl
@[simp] theorem countLink_ports (f : LinkCounters → LinkCounters) : (s.countLink f).ports = s.ports := rfl
@[simp] theorem countLink_intake (f : LinkCounters → LinkCounters) : (s.countLink f).intake = s.intake := rfl
@[simp] theorem countLink_busy (f : LinkCounters → LinkCounters) : (s.countLink f).busy = s.busy := rfl
@[simp] theorem countLink_lineChanges (f : LinkCounters → LinkCounters) : (s.countLink f).lineChanges = s.lineChanges := rfl
@[simp] theorem countLink_tags (f : LinkCounters → LinkCounters) : (s.countLink f).tags = s.tags := rfl
@[simp] theorem countLink_queues (f : LinkCounters → LinkCounters) : (s.countLink f).queues = s.queues := rfl
@[simp] theorem countLink_plan (f : LinkCounters → LinkCounters) : (s.countLink f).plan = s.plan := rfl
@[simp] theorem countLink_reports (f : LinkCounters → LinkCounters) : (s.countLink f).reports = s.reports := rfl
@[simp] theorem countLink_pending (f : LinkCounters → LinkCounters) : (s.countLink f).pending = s.pending := rfl

@[simp] theorem startExecuting_held (r : Request) : (s.startExecuting r).held = s.held := rfl
@[simp] theorem startExecuting_resetCause (r : Request) : (s.startExecuting r).resetCause = s.resetCause := rfl
@[simp] theorem startExecuting_time (r : Request) : (s.startExecuting r).time = s.time := rfl
@[simp] theorem startExecuting_ports (r : Request) : (s.startExecuting r).ports = s.ports := rfl
@[simp] theorem startExecuting_intake (r : Request) : (s.startExecuting r).intake = s.intake := rfl
@[simp] theorem startExecuting_busy (r : Request) : (s.startExecuting r).busy = s.busy := rfl
@[simp] theorem startExecuting_lineChanges (r : Request) : (s.startExecuting r).lineChanges = s.lineChanges := rfl
@[simp] theorem startExecuting_tags (r : Request) : (s.startExecuting r).tags = s.tags := rfl
@[simp] theorem startExecuting_queues (r : Request) : (s.startExecuting r).queues = s.queues := rfl
@[simp] theorem startExecuting_plan (r : Request) : (s.startExecuting r).plan = s.plan := rfl
@[simp] theorem startExecuting_reports (r : Request) : (s.startExecuting r).reports = s.reports := rfl
@[simp] theorem startExecuting_pending (r : Request) : (s.startExecuting r).pending = s.pending := rfl

@[simp] theorem answered_held (r : Request) (status : Status) (results : List Byte) : (s.answered r status results).held = s.held := rfl
@[simp] theorem answered_resetCause (r : Request) (status : Status) (results : List Byte) : (s.answered r status results).resetCause = s.resetCause := rfl
@[simp] theorem answered_time (r : Request) (status : Status) (results : List Byte) : (s.answered r status results).time = s.time := rfl
@[simp] theorem answered_ports (r : Request) (status : Status) (results : List Byte) : (s.answered r status results).ports = s.ports := rfl
@[simp] theorem answered_intake (r : Request) (status : Status) (results : List Byte) : (s.answered r status results).intake = s.intake := rfl
@[simp] theorem answered_busy (r : Request) (status : Status) (results : List Byte) : (s.answered r status results).busy = s.busy := rfl
@[simp] theorem answered_lineChanges (r : Request) (status : Status) (results : List Byte) : (s.answered r status results).lineChanges = s.lineChanges := rfl
@[simp] theorem answered_tags (r : Request) (status : Status) (results : List Byte) : (s.answered r status results).tags = s.tags := rfl
@[simp] theorem answered_queues (r : Request) (status : Status) (results : List Byte) : (s.answered r status results).queues = s.queues := rfl
@[simp] theorem answered_plan (r : Request) (status : Status) (results : List Byte) : (s.answered r status results).plan = s.plan := rfl
@[simp] theorem answered_reports (r : Request) (status : Status) (results : List Byte) : (s.answered r status results).reports = s.reports := rfl
@[simp] theorem answered_pending (r : Request) (status : Status) (results : List Byte) : (s.answered r status results).pending = s.pending := rfl

@[simp] theorem pushReport_held (body : ReportBody) : (s.pushReport body).held = s.held := rfl
@[simp] theorem pushReport_resetCause (body : ReportBody) : (s.pushReport body).resetCause = s.resetCause := rfl
@[simp] theorem pushReport_time (body : ReportBody) : (s.pushReport body).time = s.time := rfl
@[simp] theorem pushReport_ports (body : ReportBody) : (s.pushReport body).ports = s.ports := rfl
@[simp] theorem pushReport_intake (body : ReportBody) : (s.pushReport body).intake = s.intake := rfl
@[simp] theorem pushReport_busy (body : ReportBody) : (s.pushReport body).busy = s.busy := rfl
@[simp] theorem pushReport_lineChanges (body : ReportBody) : (s.pushReport body).lineChanges = s.lineChanges := rfl
@[simp] theorem pushReport_tags (body : ReportBody) : (s.pushReport body).tags = s.tags := rfl
@[simp] theorem pushReport_queues (body : ReportBody) : (s.pushReport body).queues = s.queues := rfl
@[simp] theorem pushReport_plan (body : ReportBody) : (s.pushReport body).plan = s.plan := rfl
@[simp] theorem pushReport_link (body : ReportBody) : (s.pushReport body).link = s.link := rfl
@[simp] theorem pushReport_pending (body : ReportBody) : (s.pushReport body).pending = s.pending := rfl

@[simp] theorem startFrame_held (kind seq : Byte) (payload : List Byte) (ends : Bool) : (s.startFrame kind seq payload ends).held = s.held := rfl
@[simp] theorem startFrame_resetCause (kind seq : Byte) (payload : List Byte) (ends : Bool) : (s.startFrame kind seq payload ends).resetCause = s.resetCause := rfl
@[simp] theorem startFrame_time (kind seq : Byte) (payload : List Byte) (ends : Bool) : (s.startFrame kind seq payload ends).time = s.time := rfl
@[simp] theorem startFrame_ports (kind seq : Byte) (payload : List Byte) (ends : Bool) : (s.startFrame kind seq payload ends).ports = s.ports := rfl
@[simp] theorem startFrame_intake (kind seq : Byte) (payload : List Byte) (ends : Bool) : (s.startFrame kind seq payload ends).intake = s.intake := rfl
@[simp] theorem startFrame_busy (kind seq : Byte) (payload : List Byte) (ends : Bool) : (s.startFrame kind seq payload ends).busy = s.busy := rfl
@[simp] theorem startFrame_lineChanges (kind seq : Byte) (payload : List Byte) (ends : Bool) : (s.startFrame kind seq payload ends).lineChanges = s.lineChanges := rfl
@[simp] theorem startFrame_tags (kind seq : Byte) (payload : List Byte) (ends : Bool) : (s.startFrame kind seq payload ends).tags = s.tags := rfl
@[simp] theorem startFrame_queues (kind seq : Byte) (payload : List Byte) (ends : Bool) : (s.startFrame kind seq payload ends).queues = s.queues := rfl
@[simp] theorem startFrame_plan (kind seq : Byte) (payload : List Byte) (ends : Bool) : (s.startFrame kind seq payload ends).plan = s.plan := rfl
@[simp] theorem startFrame_reports (kind seq : Byte) (payload : List Byte) (ends : Bool) : (s.startFrame kind seq payload ends).reports = s.reports := rfl
@[simp] theorem startFrame_pending (kind seq : Byte) (payload : List Byte) (ends : Bool) : (s.startFrame kind seq payload ends).pending = s.pending := rfl

/-! ### What an update writes -/

@[simp] theorem port_withPort (n : LineNo) (p : Port) : (s.withPort n p).port n = p := by
  simp [State.port, State.withPort]

theorem port_withPort_ne (n m : LineNo) (p : Port) (h : m ≠ n) : (s.withPort n p).port m = s.port m := by
  have : n.val ≠ m.val := fun e => h (Fin.ext e.symm)
  simp [State.port, State.withPort, this]

theorem port_withPort_eq (n m : LineNo) (p : Port) : (s.withPort n p).port m = if m = n then p else s.port m := by
  by_cases h : m = n
  · subst h; simp
  · simp [h, port_withPort_ne]

@[simp] theorem port_mapPort (n : LineNo) (f : Port → Port) : (s.mapPort n f).port n = f (s.port n) := by
  simp [State.mapPort]

theorem port_mapPort_eq (n m : LineNo) (f : Port → Port) :
    (s.mapPort n f).port m = if m = n then f (s.port n) else s.port m := by
  simp [State.mapPort, port_withPort_eq]

@[simp] theorem stream_withStream (n : QueueNo) (t : StreamState) : (s.withStream n t).stream n = t := by
  simp [State.stream, State.withStream]

theorem stream_withStream_ne (n m : QueueNo) (t : StreamState) (h : m ≠ n) :
    (s.withStream n t).stream m = s.stream m := by
  have : n.val ≠ m.val := fun e => h (Fin.ext e.symm)
  simp [State.stream, State.withStream, this]

theorem stream_withStream_eq (n m : QueueNo) (t : StreamState) :
    (s.withStream n t).stream m = if m = n then t else s.stream m := by
  by_cases h : m = n
  · subst h; simp
  · simp [h, stream_withStream_ne]

@[simp] theorem queue_withQueue (n : QueueNo) (q : CaptureQueue) : (s.withQueue n q).queue n = q := by
  simp [State.queue, State.withQueue, State.withStream]

theorem queue_withQueue_ne (n m : QueueNo) (q : CaptureQueue) (h : m ≠ n) :
    (s.withQueue n q).queue m = s.queue m := by
  have : n.val ≠ m.val := fun e => h (Fin.ext e.symm)
  simp [State.queue, State.withQueue, State.withStream, this]

theorem queue_withQueue_eq (n m : QueueNo) (q : CaptureQueue) :
    (s.withQueue n q).queue m = if m = n then q else s.queue m := by
  by_cases h : m = n
  · subst h; simp
  · simp [h, queue_withQueue_ne]

/-- R156: a write of a queue moves its stream's hold start with the stream's news. -/
@[simp] theorem stream_withQueue (n : QueueNo) (q : CaptureQueue) :
    (s.withQueue n q).stream n =
      { s.stream n with holdStart := holdStartAfter q (s.stream n).holdStart s.time.runClock } := by
  simp [State.stream, State.withQueue, State.withStream]

theorem stream_withQueue_ne (n m : QueueNo) (q : CaptureQueue) (h : m ≠ n) :
    (s.withQueue n q).stream m = s.stream m := by
  have : n.val ≠ m.val := fun e => h (Fin.ext e.symm)
  simp [State.stream, State.withQueue, State.withStream, this]

@[simp] theorem queue_withStream (n m : QueueNo) (t : StreamState) : (s.withStream n t).queue m = s.queue m := rfl

@[simp] theorem withStream_reports_notices (n : QueueNo) (t : StreamState) : (s.withStream n t).reports.notices = s.reports.notices := rfl
@[simp] theorem withStream_reports_noticeLoss (n : QueueNo) (t : StreamState) : (s.withStream n t).reports.noticeLoss = s.reports.noticeLoss := rfl
@[simp] theorem withStream_reports_window (n : QueueNo) (t : StreamState) : (s.withStream n t).reports.window = s.reports.window := rfl
@[simp] theorem withStream_reports_nextSeq (n : QueueNo) (t : StreamState) : (s.withStream n t).reports.nextSeq = s.reports.nextSeq := rfl
@[simp] theorem withStream_reports_lastServed (n : QueueNo) (t : StreamState) : (s.withStream n t).reports.lastServed = s.reports.lastServed := rfl
@[simp] theorem withStream_reports_state (n : QueueNo) (t : StreamState) : (s.withStream n t).reports.state = s.reports.state := rfl
@[simp] theorem withStream_reports_timer (n : QueueNo) (t : StreamState) : (s.withStream n t).reports.timer = s.reports.timer := rfl
@[simp] theorem withStream_reports_retries (n : QueueNo) (t : StreamState) : (s.withStream n t).reports.retries = s.reports.retries := rfl
@[simp] theorem withStream_reports_timeout (n : QueueNo) (t : StreamState) : (s.withStream n t).reports.timeout = s.reports.timeout := rfl
@[simp] theorem withStream_reports_retryLimit (n : QueueNo) (t : StreamState) : (s.withStream n t).reports.retryLimit = s.reports.retryLimit := rfl
@[simp] theorem withStream_reports_strays (n : QueueNo) (t : StreamState) : (s.withStream n t).reports.strays = s.reports.strays := rfl

@[simp] theorem withQueue_reports_notices (n : QueueNo) (q : CaptureQueue) : (s.withQueue n q).reports.notices = s.reports.notices := rfl
@[simp] theorem withQueue_reports_noticeLoss (n : QueueNo) (q : CaptureQueue) : (s.withQueue n q).reports.noticeLoss = s.reports.noticeLoss := rfl
@[simp] theorem withQueue_reports_window (n : QueueNo) (q : CaptureQueue) : (s.withQueue n q).reports.window = s.reports.window := rfl
@[simp] theorem withQueue_reports_nextSeq (n : QueueNo) (q : CaptureQueue) : (s.withQueue n q).reports.nextSeq = s.reports.nextSeq := rfl
@[simp] theorem withQueue_reports_lastServed (n : QueueNo) (q : CaptureQueue) : (s.withQueue n q).reports.lastServed = s.reports.lastServed := rfl
@[simp] theorem withQueue_reports_state (n : QueueNo) (q : CaptureQueue) : (s.withQueue n q).reports.state = s.reports.state := rfl
@[simp] theorem withQueue_reports_timer (n : QueueNo) (q : CaptureQueue) : (s.withQueue n q).reports.timer = s.reports.timer := rfl
@[simp] theorem withQueue_reports_retries (n : QueueNo) (q : CaptureQueue) : (s.withQueue n q).reports.retries = s.reports.retries := rfl
@[simp] theorem withQueue_reports_timeout (n : QueueNo) (q : CaptureQueue) : (s.withQueue n q).reports.timeout = s.reports.timeout := rfl
@[simp] theorem withQueue_reports_retryLimit (n : QueueNo) (q : CaptureQueue) : (s.withQueue n q).reports.retryLimit = s.reports.retryLimit := rfl
@[simp] theorem withQueue_reports_strays (n : QueueNo) (q : CaptureQueue) : (s.withQueue n q).reports.strays = s.reports.strays := rfl

@[simp] theorem withStream_port (n : QueueNo) (t : StreamState) (m : LineNo) : (s.withStream n t).port m = s.port m := rfl
@[simp] theorem withQueue_port (n : QueueNo) (q : CaptureQueue) (m : LineNo) : (s.withQueue n q).port m = s.port m := rfl
@[simp] theorem withEntry_port (e : Entry) (m : LineNo) : (s.withEntry e).port m = s.port m := rfl
@[simp] theorem mapEntriesOf_port (n : LineNo) (f : Entry → Entry) (m : LineNo) : (s.mapEntriesOf n f).port m = s.port m := rfl
@[simp] theorem withSlot_port (slot : Slot) (m : LineNo) : (s.withSlot slot).port m = s.port m := rfl
@[simp] theorem stopSlots_port (n : LineNo) (m : LineNo) : (s.stopSlots n).port m = s.port m := rfl
@[simp] theorem startSlots_port (n : LineNo) (m : LineNo) : (s.startSlots n).port m = s.port m := rfl
@[simp] theorem withReceiver_port (r : FrameReceiver) (m : LineNo) : (s.withReceiver r).port m = s.port m := rfl
@[simp] theorem countLink_port (f : LinkCounters → LinkCounters) (m : LineNo) : (s.countLink f).port m = s.port m := rfl
@[simp] theorem startExecuting_port (r : Request) (m : LineNo) : (s.startExecuting r).port m = s.port m := rfl
@[simp] theorem answered_port (r : Request) (status : Status) (results : List Byte) (m : LineNo) : (s.answered r status results).port m = s.port m := rfl
@[simp] theorem pushReport_port (body : ReportBody) (m : LineNo) : (s.pushReport body).port m = s.port m := rfl
@[simp] theorem startFrame_port (kind seq : Byte) (payload : List Byte) (ends : Bool) (m : LineNo) : (s.startFrame kind seq payload ends).port m = s.port m := rfl
@[simp] theorem withPort_queue (n : LineNo) (p : Port) (m : QueueNo) : (s.withPort n p).queue m = s.queue m := rfl
@[simp] theorem mapPort_queue (n : LineNo) (f : Port → Port) (m : QueueNo) : (s.mapPort n f).queue m = s.queue m := rfl
@[simp] theorem countLine_queue (n : LineNo) (f : LineCounters → LineCounters) (m : QueueNo) : (s.countLine n f).queue m = s.queue m := rfl
@[simp] theorem withEntry_queue (e : Entry) (m : QueueNo) : (s.withEntry e).queue m = s.queue m := rfl
@[simp] theorem mapEntriesOf_queue (n : LineNo) (f : Entry → Entry) (m : QueueNo) : (s.mapEntriesOf n f).queue m = s.queue m := rfl
@[simp] theorem withSlot_queue (slot : Slot) (m : QueueNo) : (s.withSlot slot).queue m = s.queue m := rfl
@[simp] theorem stopSlots_queue (n : LineNo) (m : QueueNo) : (s.stopSlots n).queue m = s.queue m := rfl
@[simp] theorem startSlots_queue (n : LineNo) (m : QueueNo) : (s.startSlots n).queue m = s.queue m := rfl
@[simp] theorem withReceiver_queue (r : FrameReceiver) (m : QueueNo) : (s.withReceiver r).queue m = s.queue m := rfl
@[simp] theorem countLink_queue (f : LinkCounters → LinkCounters) (m : QueueNo) : (s.countLink f).queue m = s.queue m := rfl
@[simp] theorem startExecuting_queue (r : Request) (m : QueueNo) : (s.startExecuting r).queue m = s.queue m := rfl
@[simp] theorem answered_queue (r : Request) (status : Status) (results : List Byte) (m : QueueNo) : (s.answered r status results).queue m = s.queue m := rfl
@[simp] theorem pushReport_queue (body : ReportBody) (m : QueueNo) : (s.pushReport body).queue m = s.queue m := rfl
@[simp] theorem startFrame_queue (kind seq : Byte) (payload : List Byte) (ends : Bool) (m : QueueNo) : (s.startFrame kind seq payload ends).queue m = s.queue m := rfl
@[simp] theorem withPort_stream (n : LineNo) (p : Port) (m : QueueNo) : (s.withPort n p).stream m = s.stream m := rfl
@[simp] theorem mapPort_stream (n : LineNo) (f : Port → Port) (m : QueueNo) : (s.mapPort n f).stream m = s.stream m := rfl
@[simp] theorem countLine_stream (n : LineNo) (f : LineCounters → LineCounters) (m : QueueNo) : (s.countLine n f).stream m = s.stream m := rfl
@[simp] theorem withEntry_stream (e : Entry) (m : QueueNo) : (s.withEntry e).stream m = s.stream m := rfl
@[simp] theorem mapEntriesOf_stream (n : LineNo) (f : Entry → Entry) (m : QueueNo) : (s.mapEntriesOf n f).stream m = s.stream m := rfl
@[simp] theorem withSlot_stream (slot : Slot) (m : QueueNo) : (s.withSlot slot).stream m = s.stream m := rfl
@[simp] theorem stopSlots_stream (n : LineNo) (m : QueueNo) : (s.stopSlots n).stream m = s.stream m := rfl
@[simp] theorem startSlots_stream (n : LineNo) (m : QueueNo) : (s.startSlots n).stream m = s.stream m := rfl
@[simp] theorem withReceiver_stream (r : FrameReceiver) (m : QueueNo) : (s.withReceiver r).stream m = s.stream m := rfl
@[simp] theorem countLink_stream (f : LinkCounters → LinkCounters) (m : QueueNo) : (s.countLink f).stream m = s.stream m := rfl
@[simp] theorem startExecuting_stream (r : Request) (m : QueueNo) : (s.startExecuting r).stream m = s.stream m := rfl
@[simp] theorem answered_stream (r : Request) (status : Status) (results : List Byte) (m : QueueNo) : (s.answered r status results).stream m = s.stream m := rfl
@[simp] theorem startFrame_stream (kind seq : Byte) (payload : List Byte) (ends : Bool) (m : QueueNo) : (s.startFrame kind seq payload ends).stream m = s.stream m := rfl

@[simp] theorem now_withPort (n : LineNo) (p : Port) : (s.withPort n p).now = s.now := rfl

/-! ### After reset -/

@[simp] theorem port_reset (n : LineNo) : State.reset.port n = {} := by
  simp [State.port, State.reset]

@[simp] theorem stream_reset (n : QueueNo) : State.reset.stream n = {} := by
  simp [State.stream, State.reset]

theorem queue_reset (n : QueueNo) :
    State.reset.queue n = { depth := if n = mergedQueue then 4096 else 512 } := by
  revert n; decide

end Sys2Proof.Laws
end

