-- ==== Sys2Proof/Laws/Ops.lean ====
section
/-! SUPPORT. What each shared operation can do, said once: the fields it leaves, and the fields it writes. The provers
cite these in place of unfolding the operation. -/

namespace Sys2Proof.Laws

-- One theorem after another: elaborating them all at once costs a thread and its stack for each.
set_option Elab.async false

open Sys2Proof.Machine

variable (s : State)

/-! ### Notices (R155) -/

@[simp] theorem queueNotice_held (x : Notice) : (s.queueNotice x).held = s.held := by simp only [State.queueNotice]; split <;> rfl
@[simp] theorem queueNotice_resetCause (x : Notice) : (s.queueNotice x).resetCause = s.resetCause := by simp only [State.queueNotice]; split <;> rfl
@[simp] theorem queueNotice_time (x : Notice) : (s.queueNotice x).time = s.time := by simp only [State.queueNotice]; split <;> rfl
@[simp] theorem queueNotice_ports (x : Notice) : (s.queueNotice x).ports = s.ports := by simp only [State.queueNotice]; split <;> rfl
@[simp] theorem queueNotice_intake (x : Notice) : (s.queueNotice x).intake = s.intake := by simp only [State.queueNotice]; split <;> rfl
@[simp] theorem queueNotice_busy (x : Notice) : (s.queueNotice x).busy = s.busy := by simp only [State.queueNotice]; split <;> rfl
@[simp] theorem queueNotice_lineChanges (x : Notice) : (s.queueNotice x).lineChanges = s.lineChanges := by simp only [State.queueNotice]; split <;> rfl
@[simp] theorem queueNotice_tags (x : Notice) : (s.queueNotice x).tags = s.tags := by simp only [State.queueNotice]; split <;> rfl
@[simp] theorem queueNotice_queues (x : Notice) : (s.queueNotice x).queues = s.queues := by simp only [State.queueNotice]; split <;> rfl
@[simp] theorem queueNotice_plan (x : Notice) : (s.queueNotice x).plan = s.plan := by simp only [State.queueNotice]; split <;> rfl
@[simp] theorem queueNotice_link (x : Notice) : (s.queueNotice x).link = s.link := by simp only [State.queueNotice]; split <;> rfl
@[simp] theorem queueNotice_pending (x : Notice) : (s.queueNotice x).pending = s.pending := by simp only [State.queueNotice]; split <;> rfl
@[simp] theorem queueNotice_reports_window (x : Notice) : (s.queueNotice x).reports.window = s.reports.window := by simp only [State.queueNotice]; split <;> rfl
@[simp] theorem queueNotice_reports_nextSeq (x : Notice) : (s.queueNotice x).reports.nextSeq = s.reports.nextSeq := by simp only [State.queueNotice]; split <;> rfl
@[simp] theorem queueNotice_reports_lastServed (x : Notice) : (s.queueNotice x).reports.lastServed = s.reports.lastServed := by simp only [State.queueNotice]; split <;> rfl
@[simp] theorem queueNotice_reports_state (x : Notice) : (s.queueNotice x).reports.state = s.reports.state := by simp only [State.queueNotice]; split <;> rfl
@[simp] theorem queueNotice_reports_timer (x : Notice) : (s.queueNotice x).reports.timer = s.reports.timer := by simp only [State.queueNotice]; split <;> rfl
@[simp] theorem queueNotice_reports_retries (x : Notice) : (s.queueNotice x).reports.retries = s.reports.retries := by simp only [State.queueNotice]; split <;> rfl
@[simp] theorem queueNotice_reports_timeout (x : Notice) : (s.queueNotice x).reports.timeout = s.reports.timeout := by simp only [State.queueNotice]; split <;> rfl
@[simp] theorem queueNotice_reports_retryLimit (x : Notice) : (s.queueNotice x).reports.retryLimit = s.reports.retryLimit := by simp only [State.queueNotice]; split <;> rfl
@[simp] theorem queueNotice_reports_strays (x : Notice) : (s.queueNotice x).reports.strays = s.reports.strays := by simp only [State.queueNotice]; split <;> rfl
@[simp] theorem queueNotice_port (x : Notice) (m : LineNo) : (s.queueNotice x).port m = s.port m := by simp [State.port]
@[simp] theorem queueNotice_queue (x : Notice) (m : QueueNo) : (s.queueNotice x).queue m = s.queue m := by simp [State.queue]

@[simp] theorem queueNotice_stream (x : Notice) (m : QueueNo) : (s.queueNotice x).stream m = s.stream m := by
  simp only [State.stream, State.queueNotice]; split <;> rfl

/-- R155: with fewer than 64 notices held the notice enters at the back, and nothing else changes. -/
theorem queueNotice_room (x : Notice) (h : s.reports.notices.length < 64) :
    s.queueNotice x = { s with reports := { s.reports with notices := s.reports.notices ++ [x] } } := by
  simp [State.queueNotice, Config.noticeQueue, h]

/-- R155: with 64 held the notice is lost to the saturating pending loss, and nothing else changes. -/
theorem queueNotice_full (x : Notice) (h : 64 ≤ s.reports.notices.length) :
    s.queueNotice x =
      { s with reports := { s.reports with noticeLoss := min 65535 (s.reports.noticeLoss + 1) } } := by
  simp [State.queueNotice, Config.noticeQueue, Nat.not_lt.mpr h, saturate, Config.max16]

theorem queueNotice_bounded (x : Notice) (h : s.reports.notices.length ≤ 64 ∧ s.reports.noticeLoss ≤ 65535) :
    (s.queueNotice x).reports.notices.length ≤ 64 ∧ (s.queueNotice x).reports.noticeLoss ≤ 65535 := by
  rcases Nat.lt_or_ge s.reports.notices.length 64 with h1 | h1
  · rw [queueNotice_room s x h1]; simpa using ⟨h1, h.2⟩
  · rw [queueNotice_full s x h1]; exact ⟨h.1, Nat.min_le_left _ _⟩

@[simp] theorem queueNoticeIf_true (x : Notice) : s.queueNoticeIf true x = s.queueNotice x := rfl
@[simp] theorem queueNoticeIf_false (x : Notice) : s.queueNoticeIf false x = s := rfl

@[simp] theorem queueNoticeIf_held (b : Bool) (x : Notice) : (s.queueNoticeIf b x).held = s.held := by cases b <;> simp
@[simp] theorem queueNoticeIf_resetCause (b : Bool) (x : Notice) : (s.queueNoticeIf b x).resetCause = s.resetCause := by cases b <;> simp
@[simp] theorem queueNoticeIf_time (b : Bool) (x : Notice) : (s.queueNoticeIf b x).time = s.time := by cases b <;> simp
@[simp] theorem queueNoticeIf_ports (b : Bool) (x : Notice) : (s.queueNoticeIf b x).ports = s.ports := by cases b <;> simp
@[simp] theorem queueNoticeIf_intake (b : Bool) (x : Notice) : (s.queueNoticeIf b x).intake = s.intake := by cases b <;> simp
@[simp] theorem queueNoticeIf_busy (b : Bool) (x : Notice) : (s.queueNoticeIf b x).busy = s.busy := by cases b <;> simp
@[simp] theorem queueNoticeIf_lineChanges (b : Bool) (x : Notice) : (s.queueNoticeIf b x).lineChanges = s.lineChanges := by cases b <;> simp
@[simp] theorem queueNoticeIf_tags (b : Bool) (x : Notice) : (s.queueNoticeIf b x).tags = s.tags := by cases b <;> simp
@[simp] theorem queueNoticeIf_queues (b : Bool) (x : Notice) : (s.queueNoticeIf b x).queues = s.queues := by cases b <;> simp
@[simp] theorem queueNoticeIf_plan (b : Bool) (x : Notice) : (s.queueNoticeIf b x).plan = s.plan := by cases b <;> simp
@[simp] theorem queueNoticeIf_link (b : Bool) (x : Notice) : (s.queueNoticeIf b x).link = s.link := by cases b <;> simp
@[simp] theorem queueNoticeIf_pending (b : Bool) (x : Notice) : (s.queueNoticeIf b x).pending = s.pending := by cases b <;> simp
@[simp] theorem queueNoticeIf_reports_window (b : Bool) (x : Notice) : (s.queueNoticeIf b x).reports.window = s.reports.window := by cases b <;> simp
@[simp] theorem queueNoticeIf_reports_nextSeq (b : Bool) (x : Notice) : (s.queueNoticeIf b x).reports.nextSeq = s.reports.nextSeq := by cases b <;> simp
@[simp] theorem queueNoticeIf_reports_lastServed (b : Bool) (x : Notice) : (s.queueNoticeIf b x).reports.lastServed = s.reports.lastServed := by cases b <;> simp
@[simp] theorem queueNoticeIf_reports_state (b : Bool) (x : Notice) : (s.queueNoticeIf b x).reports.state = s.reports.state := by cases b <;> simp
@[simp] theorem queueNoticeIf_reports_timer (b : Bool) (x : Notice) : (s.queueNoticeIf b x).reports.timer = s.reports.timer := by cases b <;> simp
@[simp] theorem queueNoticeIf_reports_retries (b : Bool) (x : Notice) : (s.queueNoticeIf b x).reports.retries = s.reports.retries := by cases b <;> simp
@[simp] theorem queueNoticeIf_reports_timeout (b : Bool) (x : Notice) : (s.queueNoticeIf b x).reports.timeout = s.reports.timeout := by cases b <;> simp
@[simp] theorem queueNoticeIf_reports_retryLimit (b : Bool) (x : Notice) : (s.queueNoticeIf b x).reports.retryLimit = s.reports.retryLimit := by cases b <;> simp
@[simp] theorem queueNoticeIf_reports_strays (b : Bool) (x : Notice) : (s.queueNoticeIf b x).reports.strays = s.reports.strays := by cases b <;> simp
@[simp] theorem queueNoticeIf_port (b : Bool) (x : Notice) (m : LineNo) : (s.queueNoticeIf b x).port m = s.port m := by simp [State.port]
@[simp] theorem queueNoticeIf_queue (b : Bool) (x : Notice) (m : QueueNo) : (s.queueNoticeIf b x).queue m = s.queue m := by simp [State.queue]

@[simp] theorem queueNoticeIf_stream (b : Bool) (x : Notice) (m : QueueNo) :
    (s.queueNoticeIf b x).stream m = s.stream m := by cases b <;> simp

theorem queueNoticeIf_bounded (b : Bool) (x : Notice)
    (h : s.reports.notices.length ≤ 64 ∧ s.reports.noticeLoss ≤ 65535) :
    (s.queueNoticeIf b x).reports.notices.length ≤ 64 ∧ (s.queueNoticeIf b x).reports.noticeLoss ≤ 65535 := by
  cases b
  · exact h
  · exact queueNotice_bounded s x h

/-! ### Offers to one queue (R63 to R66) -/

/-- R63: an offer to a queue with room. -/
theorem offer_room (q : CaptureQueue) (r : CaptureRecord) (h : q.records.length < q.depth) :
    q.offer r = { q with
      offered := q.offered + 1, records := q.records ++ [r], armed := q.armed && !q.aboutToFill } := by
  simp [CaptureQueue.offer, h]

/-- R64: an offer to a full KEEP_OLD queue. -/
theorem offer_keepOld (q : CaptureQueue) (r : CaptureRecord) (h : q.depth ≤ q.records.length)
    (hp : q.policy = .keepOld) :
    q.offer r = { q with
      offered := q.offered + 1, lostTotal := q.lostTotal + 1, pendingLoss := min 4294967295 (q.pendingLoss + 1) } := by
  simp [CaptureQueue.offer, Nat.not_lt.mpr h, hp, CaptureQueue.lose, saturate, Config.max32]

/-- R65: an offer to a full KEEP_NEW queue that holds a waiting record. -/
theorem offer_keepNew (q : CaptureQueue) (r : CaptureRecord) (h : q.depth ≤ q.records.length)
    (hp : q.policy = .keepNew) (hw : q.inFlight < q.records.length) :
    q.offer r = { q with
      offered := q.offered + 1, lostTotal := q.lostTotal + 1, pendingLoss := min 4294967295 (q.pendingLoss + 1)
      records := q.records.eraseIdx q.inFlight ++ [r] } := by
  simp [CaptureQueue.offer, Nat.not_lt.mpr h, hp, hw, CaptureQueue.lose, saturate, Config.max32,
    List.eraseIdx_eq_take_drop_succ]

/-- R65, R66: an offer to a full KEEP_NEW queue whose every record is in flight. -/
theorem offer_keepNew_inFlight (q : CaptureQueue) (r : CaptureRecord) (h : q.depth ≤ q.records.length)
    (hp : q.policy = .keepNew) (hw : q.records.length ≤ q.inFlight) :
    q.offer r = { q with
      offered := q.offered + 1, lostTotal := q.lostTotal + 1, pendingLoss := min 4294967295 (q.pendingLoss + 1) } := by
  simp [CaptureQueue.offer, Nat.not_lt.mpr h, hp, Nat.not_lt.mpr hw, CaptureQueue.lose, saturate, Config.max32]

@[simp] theorem offer_inFlight (q : CaptureQueue) (r : CaptureRecord) : (q.offer r).inFlight = q.inFlight := by
  simp only [CaptureQueue.offer, CaptureQueue.lose]; repeat' split
  all_goals rfl

@[simp] theorem offer_depth (q : CaptureQueue) (r : CaptureRecord) : (q.offer r).depth = q.depth := by
  simp only [CaptureQueue.offer, CaptureQueue.lose]; repeat' split
  all_goals rfl

@[simp] theorem offer_policy (q : CaptureQueue) (r : CaptureRecord) : (q.offer r).policy = q.policy := by
  simp only [CaptureQueue.offer, CaptureQueue.lose]; repeat' split
  all_goals rfl

@[simp] theorem offer_acknowledged (q : CaptureQueue) (r : CaptureRecord) :
    (q.offer r).acknowledged = q.acknowledged := by
  simp only [CaptureQueue.offer, CaptureQueue.lose]; repeat' split
  all_goals rfl

@[simp] theorem offer_offered (q : CaptureQueue) (r : CaptureRecord) : (q.offer r).offered = q.offered + 1 := by
  simp only [CaptureQueue.offer, CaptureQueue.lose]; repeat' split
  all_goals rfl

/-! ### Offers in a state (R63, R73) -/

@[simp] theorem offer_held (n : QueueNo) (r : CaptureRecord) : (s.offer n r).held = s.held := by simp [State.offer]
@[simp] theorem offer_resetCause (n : QueueNo) (r : CaptureRecord) : (s.offer n r).resetCause = s.resetCause := by simp [State.offer]
@[simp] theorem offer_time (n : QueueNo) (r : CaptureRecord) : (s.offer n r).time = s.time := by simp [State.offer]
@[simp] theorem offer_ports (n : QueueNo) (r : CaptureRecord) : (s.offer n r).ports = s.ports := by simp [State.offer]
@[simp] theorem offer_intake (n : QueueNo) (r : CaptureRecord) : (s.offer n r).intake = s.intake := by simp [State.offer]
@[simp] theorem offer_busy (n : QueueNo) (r : CaptureRecord) : (s.offer n r).busy = s.busy := by simp [State.offer]
@[simp] theorem offer_lineChanges (n : QueueNo) (r : CaptureRecord) : (s.offer n r).lineChanges = s.lineChanges := by simp [State.offer]
@[simp] theorem offer_tags (n : QueueNo) (r : CaptureRecord) : (s.offer n r).tags = s.tags := by simp [State.offer]
@[simp] theorem offer_plan (n : QueueNo) (r : CaptureRecord) : (s.offer n r).plan = s.plan := by simp [State.offer]
@[simp] theorem offer_link (n : QueueNo) (r : CaptureRecord) : (s.offer n r).link = s.link := by simp [State.offer]
@[simp] theorem offer_pending (n : QueueNo) (r : CaptureRecord) : (s.offer n r).pending = s.pending := by simp [State.offer]
@[simp] theorem offer_reports_window (n : QueueNo) (r : CaptureRecord) : (s.offer n r).reports.window = s.reports.window := by simp [State.offer]
@[simp] theorem offer_reports_nextSeq (n : QueueNo) (r : CaptureRecord) : (s.offer n r).reports.nextSeq = s.reports.nextSeq := by simp [State.offer]
@[simp] theorem offer_reports_lastServed (n : QueueNo) (r : CaptureRecord) : (s.offer n r).reports.lastServed = s.reports.lastServed := by simp [State.offer]
@[simp] theorem offer_reports_state (n : QueueNo) (r : CaptureRecord) : (s.offer n r).reports.state = s.reports.state := by simp [State.offer]
@[simp] theorem offer_reports_timer (n : QueueNo) (r : CaptureRecord) : (s.offer n r).reports.timer = s.reports.timer := by simp [State.offer]
@[simp] theorem offer_reports_retries (n : QueueNo) (r : CaptureRecord) : (s.offer n r).reports.retries = s.reports.retries := by simp [State.offer]
@[simp] theorem offer_reports_timeout (n : QueueNo) (r : CaptureRecord) : (s.offer n r).reports.timeout = s.reports.timeout := by simp [State.offer]
@[simp] theorem offer_reports_retryLimit (n : QueueNo) (r : CaptureRecord) : (s.offer n r).reports.retryLimit = s.reports.retryLimit := by simp [State.offer]
@[simp] theorem offer_reports_strays (n : QueueNo) (r : CaptureRecord) : (s.offer n r).reports.strays = s.reports.strays := by simp [State.offer]
@[simp] theorem offer_port (n : QueueNo) (r : CaptureRecord) (m : LineNo) : (s.offer n r).port m = s.port m := by simp [State.port]

@[simp] theorem offer_queue (n : QueueNo) (r : CaptureRecord) : (s.offer n r).queue n = (s.queue n).offer r := by
  simp [State.offer]

theorem offer_queue_eq (n m : QueueNo) (r : CaptureRecord) :
    (s.offer n r).queue m = if m = n then (s.queue n).offer r else s.queue m := by
  simp [State.offer, queue_withQueue_eq]

/-- An offer that does not fill the queue queues no notice (R73). -/
theorem offer_quiet (n : QueueNo) (r : CaptureRecord) (h : (s.queue n).aboutToFill = false) :
    s.offer n r = s.withQueue n ((s.queue n).offer r) := by
  simp [State.offer, h]

theorem offer_bounded (n : QueueNo) (r : CaptureRecord)
    (h : s.reports.notices.length ≤ 64 ∧ s.reports.noticeLoss ≤ 65535) :
    (s.offer n r).reports.notices.length ≤ 64 ∧ (s.offer n r).reports.noticeLoss ≤ 65535 :=
  queueNoticeIf_bounded _ _ _ (by simpa using h)

@[simp] theorem offerStartMarks_held (n : LineNo) (stamps : List Stamp) : (s.offerStartMarks n stamps).held = s.held := by
  induction stamps generalizing s with
  | nil => rfl
  | cons a t ih => simpa [State.offerStartMarks] using ih (s.offer (lineQueue n) (markRecord (lineQueue n) .lineStart a))
@[simp] theorem offerStartMarks_resetCause (n : LineNo) (stamps : List Stamp) : (s.offerStartMarks n stamps).resetCause = s.resetCause := by
  induction stamps generalizing s with
  | nil => rfl
  | cons a t ih => simpa [State.offerStartMarks] using ih (s.offer (lineQueue n) (markRecord (lineQueue n) .lineStart a))
@[simp] theorem offerStartMarks_time (n : LineNo) (stamps : List Stamp) : (s.offerStartMarks n stamps).time = s.time := by
  induction stamps generalizing s with
  | nil => rfl
  | cons a t ih => simpa [State.offerStartMarks] using ih (s.offer (lineQueue n) (markRecord (lineQueue n) .lineStart a))
@[simp] theorem offerStartMarks_ports (n : LineNo) (stamps : List Stamp) : (s.offerStartMarks n stamps).ports = s.ports := by
  induction stamps generalizing s with
  | nil => rfl
  | cons a t ih => simpa [State.offerStartMarks] using ih (s.offer (lineQueue n) (markRecord (lineQueue n) .lineStart a))
@[simp] theorem offerStartMarks_intake (n : LineNo) (stamps : List Stamp) : (s.offerStartMarks n stamps).intake = s.intake := by
  induction stamps generalizing s with
  | nil => rfl
  | cons a t ih => simpa [State.offerStartMarks] using ih (s.offer (lineQueue n) (markRecord (lineQueue n) .lineStart a))
@[simp] theorem offerStartMarks_busy (n : LineNo) (stamps : List Stamp) : (s.offerStartMarks n stamps).busy = s.busy := by
  induction stamps generalizing s with
  | nil => rfl
  | cons a t ih => simpa [State.offerStartMarks] using ih (s.offer (lineQueue n) (markRecord (lineQueue n) .lineStart a))
@[simp] theorem offerStartMarks_lineChanges (n : LineNo) (stamps : List Stamp) : (s.offerStartMarks n stamps).lineChanges = s.lineChanges := by
  induction stamps generalizing s with
  | nil => rfl
  | cons a t ih => simpa [State.offerStartMarks] using ih (s.offer (lineQueue n) (markRecord (lineQueue n) .lineStart a))
@[simp] theorem offerStartMarks_tags (n : LineNo) (stamps : List Stamp) : (s.offerStartMarks n stamps).tags = s.tags := by
  induction stamps generalizing s with
  | nil => rfl
  | cons a t ih => simpa [State.offerStartMarks] using ih (s.offer (lineQueue n) (markRecord (lineQueue n) .lineStart a))
@[simp] theorem offerStartMarks_plan (n : LineNo) (stamps : List Stamp) : (s.offerStartMarks n stamps).plan = s.plan := by
  induction stamps generalizing s with
  | nil => rfl
  | cons a t ih => simpa [State.offerStartMarks] using ih (s.offer (lineQueue n) (markRecord (lineQueue n) .lineStart a))
@[simp] theorem offerStartMarks_link (n : LineNo) (stamps : List Stamp) : (s.offerStartMarks n stamps).link = s.link := by
  induction stamps generalizing s with
  | nil => rfl
  | cons a t ih => simpa [State.offerStartMarks] using ih (s.offer (lineQueue n) (markRecord (lineQueue n) .lineStart a))
@[simp] theorem offerStartMarks_pending (n : LineNo) (stamps : List Stamp) : (s.offerStartMarks n stamps).pending = s.pending := by
  induction stamps generalizing s with
  | nil => rfl
  | cons a t ih => simpa [State.offerStartMarks] using ih (s.offer (lineQueue n) (markRecord (lineQueue n) .lineStart a))
@[simp] theorem offerStartMarks_reports_window (n : LineNo) (stamps : List Stamp) : (s.offerStartMarks n stamps).reports.window = s.reports.window := by
  induction stamps generalizing s with
  | nil => rfl
  | cons a t ih => simpa [State.offerStartMarks] using ih (s.offer (lineQueue n) (markRecord (lineQueue n) .lineStart a))
@[simp] theorem offerStartMarks_reports_nextSeq (n : LineNo) (stamps : List Stamp) : (s.offerStartMarks n stamps).reports.nextSeq = s.reports.nextSeq := by
  induction stamps generalizing s with
  | nil => rfl
  | cons a t ih => simpa [State.offerStartMarks] using ih (s.offer (lineQueue n) (markRecord (lineQueue n) .lineStart a))
@[simp] theorem offerStartMarks_reports_lastServed (n : LineNo) (stamps : List Stamp) : (s.offerStartMarks n stamps).reports.lastServed = s.reports.lastServed := by
  induction stamps generalizing s with
  | nil => rfl
  | cons a t ih => simpa [State.offerStartMarks] using ih (s.offer (lineQueue n) (markRecord (lineQueue n) .lineStart a))
@[simp] theorem offerStartMarks_reports_state (n : LineNo) (stamps : List Stamp) : (s.offerStartMarks n stamps).reports.state = s.reports.state := by
  induction stamps generalizing s with
  | nil => rfl
  | cons a t ih => simpa [State.offerStartMarks] using ih (s.offer (lineQueue n) (markRecord (lineQueue n) .lineStart a))
@[simp] theorem offerStartMarks_reports_timer (n : LineNo) (stamps : List Stamp) : (s.offerStartMarks n stamps).reports.timer = s.reports.timer := by
  induction stamps generalizing s with
  | nil => rfl
  | cons a t ih => simpa [State.offerStartMarks] using ih (s.offer (lineQueue n) (markRecord (lineQueue n) .lineStart a))
@[simp] theorem offerStartMarks_reports_retries (n : LineNo) (stamps : List Stamp) : (s.offerStartMarks n stamps).reports.retries = s.reports.retries := by
  induction stamps generalizing s with
  | nil => rfl
  | cons a t ih => simpa [State.offerStartMarks] using ih (s.offer (lineQueue n) (markRecord (lineQueue n) .lineStart a))
@[simp] theorem offerStartMarks_reports_timeout (n : LineNo) (stamps : List Stamp) : (s.offerStartMarks n stamps).reports.timeout = s.reports.timeout := by
  induction stamps generalizing s with
  | nil => rfl
  | cons a t ih => simpa [State.offerStartMarks] using ih (s.offer (lineQueue n) (markRecord (lineQueue n) .lineStart a))
@[simp] theorem offerStartMarks_reports_retryLimit (n : LineNo) (stamps : List Stamp) : (s.offerStartMarks n stamps).reports.retryLimit = s.reports.retryLimit := by
  induction stamps generalizing s with
  | nil => rfl
  | cons a t ih => simpa [State.offerStartMarks] using ih (s.offer (lineQueue n) (markRecord (lineQueue n) .lineStart a))
@[simp] theorem offerStartMarks_reports_strays (n : LineNo) (stamps : List Stamp) : (s.offerStartMarks n stamps).reports.strays = s.reports.strays := by
  induction stamps generalizing s with
  | nil => rfl
  | cons a t ih => simpa [State.offerStartMarks] using ih (s.offer (lineQueue n) (markRecord (lineQueue n) .lineStart a))
@[simp] theorem offerStartMarks_port (n : LineNo) (stamps : List Stamp) (m : LineNo) : (s.offerStartMarks n stamps).port m = s.port m := by simp [State.port]

theorem offerLoadMark_cases (reason : MarkReason) (stamp : Stamp) (n : QueueNo) :
    s.offerLoadMark reason stamp n = s ∨
      s.offerLoadMark reason stamp n = s.offer n (markRecord n reason stamp) := by
  unfold State.offerLoadMark; split <;> simp

/-! ### Loads of line time (R83) -/

@[simp] theorem offerLoadMark_held (reason : MarkReason) (stamp : Stamp) (n : QueueNo) :
    (s.offerLoadMark reason stamp n).held = s.held := by
  rcases offerLoadMark_cases s reason stamp n with h | h <;> simp [h]
@[simp] theorem offerLoadMark_resetCause (reason : MarkReason) (stamp : Stamp) (n : QueueNo) :
    (s.offerLoadMark reason stamp n).resetCause = s.resetCause := by
  rcases offerLoadMark_cases s reason stamp n with h | h <;> simp [h]
@[simp] theorem offerLoadMark_ports (reason : MarkReason) (stamp : Stamp) (n : QueueNo) :
    (s.offerLoadMark reason stamp n).ports = s.ports := by
  rcases offerLoadMark_cases s reason stamp n with h | h <;> simp [h]
@[simp] theorem offerLoadMark_intake (reason : MarkReason) (stamp : Stamp) (n : QueueNo) :
    (s.offerLoadMark reason stamp n).intake = s.intake := by
  rcases offerLoadMark_cases s reason stamp n with h | h <;> simp [h]
@[simp] theorem offerLoadMark_busy (reason : MarkReason) (stamp : Stamp) (n : QueueNo) :
    (s.offerLoadMark reason stamp n).busy = s.busy := by
  rcases offerLoadMark_cases s reason stamp n with h | h <;> simp [h]
@[simp] theorem offerLoadMark_lineChanges (reason : MarkReason) (stamp : Stamp) (n : QueueNo) :
    (s.offerLoadMark reason stamp n).lineChanges = s.lineChanges := by
  rcases offerLoadMark_cases s reason stamp n with h | h <;> simp [h]
@[simp] theorem offerLoadMark_tags (reason : MarkReason) (stamp : Stamp) (n : QueueNo) :
    (s.offerLoadMark reason stamp n).tags = s.tags := by
  rcases offerLoadMark_cases s reason stamp n with h | h <;> simp [h]
@[simp] theorem offerLoadMark_plan (reason : MarkReason) (stamp : Stamp) (n : QueueNo) :
    (s.offerLoadMark reason stamp n).plan = s.plan := by
  rcases offerLoadMark_cases s reason stamp n with h | h <;> simp [h]
@[simp] theorem offerLoadMark_link (reason : MarkReason) (stamp : Stamp) (n : QueueNo) :
    (s.offerLoadMark reason stamp n).link = s.link := by
  rcases offerLoadMark_cases s reason stamp n with h | h <;> simp [h]
@[simp] theorem offerLoadMark_pending (reason : MarkReason) (stamp : Stamp) (n : QueueNo) :
    (s.offerLoadMark reason stamp n).pending = s.pending := by
  rcases offerLoadMark_cases s reason stamp n with h | h <;> simp [h]
@[simp] theorem offerLoadMark_time (reason : MarkReason) (stamp : Stamp) (n : QueueNo) :
    (s.offerLoadMark reason stamp n).time = s.time := by
  rcases offerLoadMark_cases s reason stamp n with h | h <;> simp [h]
theorem offerLoadMarks_held (reason : MarkReason) (stamp : Stamp) (l : List QueueNo) :
    (l.foldl (State.offerLoadMark reason stamp) s).held = s.held := by
  induction l generalizing s with
  | nil => rfl
  | cons a t ih => simp [ih]
theorem offerLoadMarks_resetCause (reason : MarkReason) (stamp : Stamp) (l : List QueueNo) :
    (l.foldl (State.offerLoadMark reason stamp) s).resetCause = s.resetCause := by
  induction l generalizing s with
  | nil => rfl
  | cons a t ih => simp [ih]
theorem offerLoadMarks_ports (reason : MarkReason) (stamp : Stamp) (l : List QueueNo) :
    (l.foldl (State.offerLoadMark reason stamp) s).ports = s.ports := by
  induction l generalizing s with
  | nil => rfl
  | cons a t ih => simp [ih]
theorem offerLoadMarks_intake (reason : MarkReason) (stamp : Stamp) (l : List QueueNo) :
    (l.foldl (State.offerLoadMark reason stamp) s).intake = s.intake := by
  induction l generalizing s with
  | nil => rfl
  | cons a t ih => simp [ih]
theorem offerLoadMarks_busy (reason : MarkReason) (stamp : Stamp) (l : List QueueNo) :
    (l.foldl (State.offerLoadMark reason stamp) s).busy = s.busy := by
  induction l generalizing s with
  | nil => rfl
  | cons a t ih => simp [ih]
theorem offerLoadMarks_lineChanges (reason : MarkReason) (stamp : Stamp) (l : List QueueNo) :
    (l.foldl (State.offerLoadMark reason stamp) s).lineChanges = s.lineChanges := by
  induction l generalizing s with
  | nil => rfl
  | cons a t ih => simp [ih]
theorem offerLoadMarks_tags (reason : MarkReason) (stamp : Stamp) (l : List QueueNo) :
    (l.foldl (State.offerLoadMark reason stamp) s).tags = s.tags := by
  induction l generalizing s with
  | nil => rfl
  | cons a t ih => simp [ih]
theorem offerLoadMarks_plan (reason : MarkReason) (stamp : Stamp) (l : List QueueNo) :
    (l.foldl (State.offerLoadMark reason stamp) s).plan = s.plan := by
  induction l generalizing s with
  | nil => rfl
  | cons a t ih => simp [ih]
theorem offerLoadMarks_link (reason : MarkReason) (stamp : Stamp) (l : List QueueNo) :
    (l.foldl (State.offerLoadMark reason stamp) s).link = s.link := by
  induction l generalizing s with
  | nil => rfl
  | cons a t ih => simp [ih]
theorem offerLoadMarks_pending (reason : MarkReason) (stamp : Stamp) (l : List QueueNo) :
    (l.foldl (State.offerLoadMark reason stamp) s).pending = s.pending := by
  induction l generalizing s with
  | nil => rfl
  | cons a t ih => simp [ih]
theorem offerLoadMarks_time (reason : MarkReason) (stamp : Stamp) (l : List QueueNo) :
    (l.foldl (State.offerLoadMark reason stamp) s).time = s.time := by
  induction l generalizing s with
  | nil => rfl
  | cons a t ih => simp [ih]
@[simp] theorem load_held (v : Nat) (reason : MarkReason) : (s.load v reason).held = s.held := by
  simp [State.load, offerLoadMarks_held]
@[simp] theorem load_resetCause (v : Nat) (reason : MarkReason) : (s.load v reason).resetCause = s.resetCause := by
  simp [State.load, offerLoadMarks_resetCause]
@[simp] theorem load_ports (v : Nat) (reason : MarkReason) : (s.load v reason).ports = s.ports := by
  simp [State.load, offerLoadMarks_ports]
@[simp] theorem load_intake (v : Nat) (reason : MarkReason) : (s.load v reason).intake = s.intake := by
  simp [State.load, offerLoadMarks_intake]
@[simp] theorem load_busy (v : Nat) (reason : MarkReason) : (s.load v reason).busy = s.busy := by
  simp [State.load, offerLoadMarks_busy]
@[simp] theorem load_lineChanges (v : Nat) (reason : MarkReason) : (s.load v reason).lineChanges = s.lineChanges := by
  simp [State.load, offerLoadMarks_lineChanges]
@[simp] theorem load_tags (v : Nat) (reason : MarkReason) : (s.load v reason).tags = s.tags := by
  simp [State.load, offerLoadMarks_tags]
@[simp] theorem load_plan (v : Nat) (reason : MarkReason) : (s.load v reason).plan = s.plan := by
  simp [State.load, offerLoadMarks_plan]
@[simp] theorem load_link (v : Nat) (reason : MarkReason) : (s.load v reason).link = s.link := by
  simp [State.load, offerLoadMarks_link]
@[simp] theorem load_pending (v : Nat) (reason : MarkReason) : (s.load v reason).pending = s.pending := by
  simp [State.load, offerLoadMarks_pending]

/-- R83: a load sets line time and takes the next epoch; the rest of the time base stays. -/
@[simp] theorem load_time (v : Nat) (reason : MarkReason) :
    (s.load v reason).time = { s.time with lineTime := v, epoch := s.time.epoch + 1 } := by
  simp [State.load, offerLoadMarks_time]

theorem offerLoadMark_queue (reason : MarkReason) (stamp : Stamp) (n m : QueueNo) :
    (s.offerLoadMark reason stamp n).queue m =
      if m = n ∧ ¬ (n ≠ mergedQueue ∧ (s.queue n).depth = 0) then (s.queue m).offer (markRecord m reason stamp)
      else s.queue m := by
  unfold State.offerLoadMark
  by_cases h : n ≠ mergedQueue ∧ (s.queue n).depth = 0
  · simp [h]
  · by_cases hm : m = n
    · subst hm; simp only [h, not_false_eq_true, and_self, if_true, if_false, offer_queue]
    · simp [hm, h, offer_queue_eq]

theorem offerLoadMarks_queue (reason : MarkReason) (stamp : Stamp) (m : QueueNo) (l : List QueueNo)
    (hl : l.Nodup) :
    (l.foldl (State.offerLoadMark reason stamp) s).queue m =
      if m ∈ l ∧ ¬ (m ≠ mergedQueue ∧ (s.queue m).depth = 0) then (s.queue m).offer (markRecord m reason stamp)
      else s.queue m := by
  induction l generalizing s with
  | nil => simp
  | cons a t ih =>
    rw [List.nodup_cons] at hl
    rw [List.foldl_cons, ih _ hl.2, offerLoadMark_queue]
    by_cases hm : m = a
    · subst hm; simp [hl.1]
    · simp [hm]

/-- R83, R61: a load offers a MARK to every queue but the line queues of depth 0. -/
theorem load_queue (v : Nat) (reason : MarkReason) (m : QueueNo) :
    (s.load v reason).queue m =
      if m ≠ mergedQueue ∧ (s.queue m).depth = 0 then s.queue m
      else (s.queue m).offer (markRecord m reason ⟨v, s.time.epoch + 1⟩) := by
  have h := offerLoadMarks_queue { s with time := { s.time with lineTime := v, epoch := s.time.epoch + 1 } }
    reason ⟨v, s.time.epoch + 1⟩ m (List.finRange 13) (List.nodup_finRange 13)
  simp only [List.mem_finRange, true_and, ite_not] at h
  exact h

/-! ### The arrival intake (R16, R17, R62) -/

/-- What a placed LINE_START MARK can do (R62): it is attached to an item of the intake, attached to the item the Tag
Table works on, or offered to the line's queue. -/
theorem placeStartMark_cases (n : LineNo) (stamp : Stamp) :
    (∃ i, s.placeStartMark n stamp =
      { s with intake := s.intake.modify i fun item => { item with marks := item.marks ++ [stamp] } }) ∨
    (∃ busy, s.busy = some busy ∧ s.placeStartMark n stamp =
      { s with busy := some { busy with item := { busy.item with marks := busy.item.marks ++ [stamp] } } }) ∨
    s.placeStartMark n stamp = s.offer (lineQueue n) (markRecord (lineQueue n) .lineStart stamp) := by
  simp only [State.placeStartMark]
  split
  · exact .inl ⟨_, rfl⟩
  · rename_i busy _ hb
    split
    · exact .inr (.inl ⟨busy, hb, rfl⟩)
    · exact .inr (.inr rfl)
  · exact .inr (.inr rfl)

@[simp] theorem placeStartMark_held (n : LineNo) (stamp : Stamp) :
    (s.placeStartMark n stamp).held = s.held := by
  rcases placeStartMark_cases s n stamp with ⟨_, h⟩ | ⟨_, _, h⟩ | h <;> simp [h]
@[simp] theorem placeStartMark_resetCause (n : LineNo) (stamp : Stamp) :
    (s.placeStartMark n stamp).resetCause = s.resetCause := by
  rcases placeStartMark_cases s n stamp with ⟨_, h⟩ | ⟨_, _, h⟩ | h <;> simp [h]
@[simp] theorem placeStartMark_time (n : LineNo) (stamp : Stamp) :
    (s.placeStartMark n stamp).time = s.time := by
  rcases placeStartMark_cases s n stamp with ⟨_, h⟩ | ⟨_, _, h⟩ | h <;> simp [h]
@[simp] theorem placeStartMark_ports (n : LineNo) (stamp : Stamp) :
    (s.placeStartMark n stamp).ports = s.ports := by
  rcases placeStartMark_cases s n stamp with ⟨_, h⟩ | ⟨_, _, h⟩ | h <;> simp [h]
@[simp] theorem placeStartMark_lineChanges (n : LineNo) (stamp : Stamp) :
    (s.placeStartMark n stamp).lineChanges = s.lineChanges := by
  rcases placeStartMark_cases s n stamp with ⟨_, h⟩ | ⟨_, _, h⟩ | h <;> simp [h]
@[simp] theorem placeStartMark_tags (n : LineNo) (stamp : Stamp) :
    (s.placeStartMark n stamp).tags = s.tags := by
  rcases placeStartMark_cases s n stamp with ⟨_, h⟩ | ⟨_, _, h⟩ | h <;> simp [h]
@[simp] theorem placeStartMark_plan (n : LineNo) (stamp : Stamp) :
    (s.placeStartMark n stamp).plan = s.plan := by
  rcases placeStartMark_cases s n stamp with ⟨_, h⟩ | ⟨_, _, h⟩ | h <;> simp [h]
@[simp] theorem placeStartMark_link (n : LineNo) (stamp : Stamp) :
    (s.placeStartMark n stamp).link = s.link := by
  rcases placeStartMark_cases s n stamp with ⟨_, h⟩ | ⟨_, _, h⟩ | h <;> simp [h]
@[simp] theorem placeStartMark_pending (n : LineNo) (stamp : Stamp) :
    (s.placeStartMark n stamp).pending = s.pending := by
  rcases placeStartMark_cases s n stamp with ⟨_, h⟩ | ⟨_, _, h⟩ | h <;> simp [h]
@[simp] theorem placeStartMark_reports_window (n : LineNo) (stamp : Stamp) :
    (s.placeStartMark n stamp).reports.window = s.reports.window := by
  rcases placeStartMark_cases s n stamp with ⟨_, h⟩ | ⟨_, _, h⟩ | h <;> simp [h]
@[simp] theorem placeStartMark_reports_nextSeq (n : LineNo) (stamp : Stamp) :
    (s.placeStartMark n stamp).reports.nextSeq = s.reports.nextSeq := by
  rcases placeStartMark_cases s n stamp with ⟨_, h⟩ | ⟨_, _, h⟩ | h <;> simp [h]
@[simp] theorem placeStartMark_reports_lastServed (n : LineNo) (stamp : Stamp) :
    (s.placeStartMark n stamp).reports.lastServed = s.reports.lastServed := by
  rcases placeStartMark_cases s n stamp with ⟨_, h⟩ | ⟨_, _, h⟩ | h <;> simp [h]
@[simp] theorem placeStartMark_reports_state (n : LineNo) (stamp : Stamp) :
    (s.placeStartMark n stamp).reports.state = s.reports.state := by
  rcases placeStartMark_cases s n stamp with ⟨_, h⟩ | ⟨_, _, h⟩ | h <;> simp [h]
@[simp] theorem placeStartMark_reports_timer (n : LineNo) (stamp : Stamp) :
    (s.placeStartMark n stamp).reports.timer = s.reports.timer := by
  rcases placeStartMark_cases s n stamp with ⟨_, h⟩ | ⟨_, _, h⟩ | h <;> simp [h]
@[simp] theorem placeStartMark_reports_retries (n : LineNo) (stamp : Stamp) :
    (s.placeStartMark n stamp).reports.retries = s.reports.retries := by
  rcases placeStartMark_cases s n stamp with ⟨_, h⟩ | ⟨_, _, h⟩ | h <;> simp [h]
@[simp] theorem placeStartMark_reports_timeout (n : LineNo) (stamp : Stamp) :
    (s.placeStartMark n stamp).reports.timeout = s.reports.timeout := by
  rcases placeStartMark_cases s n stamp with ⟨_, h⟩ | ⟨_, _, h⟩ | h <;> simp [h]
@[simp] theorem placeStartMark_reports_retryLimit (n : LineNo) (stamp : Stamp) :
    (s.placeStartMark n stamp).reports.retryLimit = s.reports.retryLimit := by
  rcases placeStartMark_cases s n stamp with ⟨_, h⟩ | ⟨_, _, h⟩ | h <;> simp [h]
@[simp] theorem placeStartMark_reports_strays (n : LineNo) (stamp : Stamp) :
    (s.placeStartMark n stamp).reports.strays = s.reports.strays := by
  rcases placeStartMark_cases s n stamp with ⟨_, h⟩ | ⟨_, _, h⟩ | h <;> simp [h]
@[simp] theorem placeStartMark_intake_length (n : LineNo) (stamp : Stamp) :
    (s.placeStartMark n stamp).intake.length = s.intake.length := by
  rcases placeStartMark_cases s n stamp with ⟨_, h⟩ | ⟨_, _, h⟩ | h <;> simp [h]

theorem placeStartMark_bounded (n : LineNo) (stamp : Stamp)
    (h : s.reports.notices.length ≤ 64 ∧ s.reports.noticeLoss ≤ 65535) :
    (s.placeStartMark n stamp).reports.notices.length ≤ 64 ∧ (s.placeStartMark n stamp).reports.noticeLoss ≤ 65535 := by
  rcases placeStartMark_cases s n stamp with ⟨_, h1⟩ | ⟨_, _, h1⟩ | h1
  · simpa [h1] using h
  · simpa [h1] using h
  · simpa [h1] using offer_bounded s _ _ h

@[simp] theorem placeStartMarks_held (n : LineNo) (stamps : List Stamp) :
    (s.placeStartMarks n stamps).held = s.held := by
  induction stamps generalizing s with
  | nil => rfl
  | cons a t ih => simpa [State.placeStartMarks] using ih (s.placeStartMark n a)
@[simp] theorem placeStartMarks_resetCause (n : LineNo) (stamps : List Stamp) :
    (s.placeStartMarks n stamps).resetCause = s.resetCause := by
  induction stamps generalizing s with
  | nil => rfl
  | cons a t ih => simpa [State.placeStartMarks] using ih (s.placeStartMark n a)
@[simp] theorem placeStartMarks_time (n : LineNo) (stamps : List Stamp) :
    (s.placeStartMarks n stamps).time = s.time := by
  induction stamps generalizing s with
  | nil => rfl
  | cons a t ih => simpa [State.placeStartMarks] using ih (s.placeStartMark n a)
@[simp] theorem placeStartMarks_ports (n : LineNo) (stamps : List Stamp) :
    (s.placeStartMarks n stamps).ports = s.ports := by
  induction stamps generalizing s with
  | nil => rfl
  | cons a t ih => simpa [State.placeStartMarks] using ih (s.placeStartMark n a)
@[simp] theorem placeStartMarks_lineChanges (n : LineNo) (stamps : List Stamp) :
    (s.placeStartMarks n stamps).lineChanges = s.lineChanges := by
  induction stamps generalizing s with
  | nil => rfl
  | cons a t ih => simpa [State.placeStartMarks] using ih (s.placeStartMark n a)
@[simp] theorem placeStartMarks_tags (n : LineNo) (stamps : List Stamp) :
    (s.placeStartMarks n stamps).tags = s.tags := by
  induction stamps generalizing s with
  | nil => rfl
  | cons a t ih => simpa [State.placeStartMarks] using ih (s.placeStartMark n a)
@[simp] theorem placeStartMarks_plan (n : LineNo) (stamps : List Stamp) :
    (s.placeStartMarks n stamps).plan = s.plan := by
  induction stamps generalizing s with
  | nil => rfl
  | cons a t ih => simpa [State.placeStartMarks] using ih (s.placeStartMark n a)
@[simp] theorem placeStartMarks_link (n : LineNo) (stamps : List Stamp) :
    (s.placeStartMarks n stamps).link = s.link := by
  induction stamps generalizing s with
  | nil => rfl
  | cons a t ih => simpa [State.placeStartMarks] using ih (s.placeStartMark n a)
@[simp] theorem placeStartMarks_pending (n : LineNo) (stamps : List Stamp) :
    (s.placeStartMarks n stamps).pending = s.pending := by
  induction stamps generalizing s with
  | nil => rfl
  | cons a t ih => simpa [State.placeStartMarks] using ih (s.placeStartMark n a)
@[simp] theorem placeStartMarks_reports_window (n : LineNo) (stamps : List Stamp) :
    (s.placeStartMarks n stamps).reports.window = s.reports.window := by
  induction stamps generalizing s with
  | nil => rfl
  | cons a t ih => simpa [State.placeStartMarks] using ih (s.placeStartMark n a)
@[simp] theorem placeStartMarks_reports_nextSeq (n : LineNo) (stamps : List Stamp) :
    (s.placeStartMarks n stamps).reports.nextSeq = s.reports.nextSeq := by
  induction stamps generalizing s with
  | nil => rfl
  | cons a t ih => simpa [State.placeStartMarks] using ih (s.placeStartMark n a)
@[simp] theorem placeStartMarks_reports_lastServed (n : LineNo) (stamps : List Stamp) :
    (s.placeStartMarks n stamps).reports.lastServed = s.reports.lastServed := by
  induction stamps generalizing s with
  | nil => rfl
  | cons a t ih => simpa [State.placeStartMarks] using ih (s.placeStartMark n a)
@[simp] theorem placeStartMarks_reports_state (n : LineNo) (stamps : List Stamp) :
    (s.placeStartMarks n stamps).reports.state = s.reports.state := by
  induction stamps generalizing s with
  | nil => rfl
  | cons a t ih => simpa [State.placeStartMarks] using ih (s.placeStartMark n a)
@[simp] theorem placeStartMarks_reports_timer (n : LineNo) (stamps : List Stamp) :
    (s.placeStartMarks n stamps).reports.timer = s.reports.timer := by
  induction stamps generalizing s with
  | nil => rfl
  | cons a t ih => simpa [State.placeStartMarks] using ih (s.placeStartMark n a)
@[simp] theorem placeStartMarks_reports_retries (n : LineNo) (stamps : List Stamp) :
    (s.placeStartMarks n stamps).reports.retries = s.reports.retries := by
  induction stamps generalizing s with
  | nil => rfl
  | cons a t ih => simpa [State.placeStartMarks] using ih (s.placeStartMark n a)
@[simp] theorem placeStartMarks_reports_timeout (n : LineNo) (stamps : List Stamp) :
    (s.placeStartMarks n stamps).reports.timeout = s.reports.timeout := by
  induction stamps generalizing s with
  | nil => rfl
  | cons a t ih => simpa [State.placeStartMarks] using ih (s.placeStartMark n a)
@[simp] theorem placeStartMarks_reports_retryLimit (n : LineNo) (stamps : List Stamp) :
    (s.placeStartMarks n stamps).reports.retryLimit = s.reports.retryLimit := by
  induction stamps generalizing s with
  | nil => rfl
  | cons a t ih => simpa [State.placeStartMarks] using ih (s.placeStartMark n a)
@[simp] theorem placeStartMarks_reports_strays (n : LineNo) (stamps : List Stamp) :
    (s.placeStartMarks n stamps).reports.strays = s.reports.strays := by
  induction stamps generalizing s with
  | nil => rfl
  | cons a t ih => simpa [State.placeStartMarks] using ih (s.placeStartMark n a)
@[simp] theorem placeStartMarks_intake_length (n : LineNo) (stamps : List Stamp) :
    (s.placeStartMarks n stamps).intake.length = s.intake.length := by
  induction stamps generalizing s with
  | nil => rfl
  | cons a t ih => simpa [State.placeStartMarks] using ih (s.placeStartMark n a)

@[simp] theorem placeStartMarks_port (n : LineNo) (stamps : List Stamp) (m : LineNo) :
    (s.placeStartMarks n stamps).port m = s.port m := by simp [State.port]

@[simp] theorem placeStartMarks_nil (n : LineNo) : s.placeStartMarks n [] = s := rfl

/-- R16: an item that no held item of its microsecond comes after enters at the tail. -/
theorem enterIntake_tail (epoch : Byte) (item : Item) (intake : List Item)
    (h : ∀ other ∈ intake, ¬ (other.offeredAt = item.offeredAt ∧ item.entersBefore epoch other = true)) :
    enterIntake epoch item intake = intake ++ [item] := by
  have h' : intake.reverse.dropWhile
      (fun other => other.offeredAt == item.offeredAt && item.entersBefore epoch other) = intake.reverse := by
    rw [List.dropWhile_eq_self_iff]
    intro hl
    have := h _ (List.mem_reverse.mp (List.getElem_mem hl))
    simpa using this
  simp [enterIntake, h']

@[simp] theorem enterIntake_length (epoch : Byte) (item : Item) (intake : List Item) :
    (enterIntake epoch item intake).length = intake.length + 1 := by
  have h := (List.dropWhile_suffix (l := intake.reverse)
    (fun other : Item => other.offeredAt == item.offeredAt && item.entersBefore epoch other)).length_le
  simp only [List.length_reverse] at h
  simp only [enterIntake, List.length_append, List.length_cons, List.length_drop, List.length_reverse]
  omega

/-- R16: an item offered to an intake of fewer than 16 enters, and nothing else changes. -/
theorem offerItem_room (item : Item) (h : s.intake.length < 16) :
    s.offerItem item = { s with intake := enterIntake s.time.epoch item s.intake } := by
  have h1 : (enterIntake s.time.epoch item s.intake).length ≤ 16 := by simpa using h
  simp [State.offerItem, Config.intakeItems, List.take_of_length_le h1, List.drop_of_length_le h1]

/-- R17: an item without MARKs that comes last of 17 is refused and counted as an overrun of its line. -/
theorem offerItem_full (item : Item) (h : s.intake.length = 16) (hm : item.marks = [])
    (hl : ∀ other ∈ s.intake, ¬ (other.offeredAt = item.offeredAt ∧ item.entersBefore s.time.epoch other = true)) :
    s.offerItem item = s.countLine item.line fun c => { c with intakeOverruns := c.intakeOverruns + 1 } := by
  rw [State.offerItem, enterIntake_tail _ item _ hl]
  simp [Config.intakeItems, ← h, hm, State.countLine, State.mapPort, State.withPort, State.port]

theorem offerItem_bounded (item : Item) : (s.offerItem item).intake.length ≤ 16 := by
  simp only [State.offerItem]; split <;> simp [Config.intakeItems, State.countLine]

/-- R17: where 17 items would be held, the last in order is refused and counted as an overrun of its line. -/
theorem offerItem_last_refused (item refused : Item) (kept : List Item) (h : s.intake.length = 16)
    (he : enterIntake s.time.epoch item s.intake = kept ++ [refused]) :
    s.offerItem item = ({ s with intake := kept }.countLine refused.line fun c =>
      { c with intakeOverruns := c.intakeOverruns + 1 }).placeStartMarks refused.line refused.marks := by
  have hk : kept.length = 16 := by
    have := congrArg List.length he
    simpa [h] using this.symm
  simp [State.offerItem, he, Config.intakeItems, ← hk]

/-- What an offered item leaves as it is: everything but the intake, an overrun counter, and what placing the MARKs of a
refused item does. -/
theorem offerItem_cases (item : Item) :
    (∃ intake, s.offerItem item = { s with intake }) ∨
    ∃ intake line marks, s.offerItem item =
      ({ s with intake }.countLine line fun c =>
        { c with intakeOverruns := c.intakeOverruns + 1 }).placeStartMarks line marks := by
  simp only [State.offerItem]
  split
  · exact .inl ⟨_, rfl⟩
  · exact .inr ⟨_, _, _, rfl⟩

@[simp] theorem offerItem_held (item : Item) : (s.offerItem item).held = s.held := by
  rcases offerItem_cases s item with ⟨_, h⟩ | ⟨_, _, _, h⟩ <;> simp [h, State.countLine]
@[simp] theorem offerItem_resetCause (item : Item) : (s.offerItem item).resetCause = s.resetCause := by
  rcases offerItem_cases s item with ⟨_, h⟩ | ⟨_, _, _, h⟩ <;> simp [h, State.countLine]
@[simp] theorem offerItem_time (item : Item) : (s.offerItem item).time = s.time := by
  rcases offerItem_cases s item with ⟨_, h⟩ | ⟨_, _, _, h⟩ <;> simp [h, State.countLine]
@[simp] theorem offerItem_lineChanges (item : Item) : (s.offerItem item).lineChanges = s.lineChanges := by
  rcases offerItem_cases s item with ⟨_, h⟩ | ⟨_, _, _, h⟩ <;> simp [h, State.countLine]
@[simp] theorem offerItem_tags (item : Item) : (s.offerItem item).tags = s.tags := by
  rcases offerItem_cases s item with ⟨_, h⟩ | ⟨_, _, _, h⟩ <;> simp [h, State.countLine]
@[simp] theorem offerItem_plan (item : Item) : (s.offerItem item).plan = s.plan := by
  rcases offerItem_cases s item with ⟨_, h⟩ | ⟨_, _, _, h⟩ <;> simp [h, State.countLine]
@[simp] theorem offerItem_link (item : Item) : (s.offerItem item).link = s.link := by
  rcases offerItem_cases s item with ⟨_, h⟩ | ⟨_, _, _, h⟩ <;> simp [h, State.countLine]
@[simp] theorem offerItem_pending (item : Item) : (s.offerItem item).pending = s.pending := by
  rcases offerItem_cases s item with ⟨_, h⟩ | ⟨_, _, _, h⟩ <;> simp [h, State.countLine]
@[simp] theorem offerItem_reports_window (item : Item) : (s.offerItem item).reports.window = s.reports.window := by
  rcases offerItem_cases s item with ⟨_, h⟩ | ⟨_, _, _, h⟩ <;> simp [h, State.countLine]
@[simp] theorem offerItem_reports_nextSeq (item : Item) : (s.offerItem item).reports.nextSeq = s.reports.nextSeq := by
  rcases offerItem_cases s item with ⟨_, h⟩ | ⟨_, _, _, h⟩ <;> simp [h, State.countLine]
@[simp] theorem offerItem_reports_lastServed (item : Item) : (s.offerItem item).reports.lastServed = s.reports.lastServed := by
  rcases offerItem_cases s item with ⟨_, h⟩ | ⟨_, _, _, h⟩ <;> simp [h, State.countLine]
@[simp] theorem offerItem_reports_state (item : Item) : (s.offerItem item).reports.state = s.reports.state := by
  rcases offerItem_cases s item with ⟨_, h⟩ | ⟨_, _, _, h⟩ <;> simp [h, State.countLine]
@[simp] theorem offerItem_reports_timer (item : Item) : (s.offerItem item).reports.timer = s.reports.timer := by
  rcases offerItem_cases s item with ⟨_, h⟩ | ⟨_, _, _, h⟩ <;> simp [h, State.countLine]
@[simp] theorem offerItem_reports_retries (item : Item) : (s.offerItem item).reports.retries = s.reports.retries := by
  rcases offerItem_cases s item with ⟨_, h⟩ | ⟨_, _, _, h⟩ <;> simp [h, State.countLine]
@[simp] theorem offerItem_reports_timeout (item : Item) : (s.offerItem item).reports.timeout = s.reports.timeout := by
  rcases offerItem_cases s item with ⟨_, h⟩ | ⟨_, _, _, h⟩ <;> simp [h, State.countLine]
@[simp] theorem offerItem_reports_retryLimit (item : Item) : (s.offerItem item).reports.retryLimit = s.reports.retryLimit := by
  rcases offerItem_cases s item with ⟨_, h⟩ | ⟨_, _, _, h⟩ <;> simp [h, State.countLine]
@[simp] theorem offerItem_reports_strays (item : Item) : (s.offerItem item).reports.strays = s.reports.strays := by
  rcases offerItem_cases s item with ⟨_, h⟩ | ⟨_, _, _, h⟩ <;> simp [h, State.countLine]

/-- R17: apart from an overrun counter an offered item leaves every port as it is. -/
theorem offerItem_port (item : Item) (m : LineNo) :
    ∃ c, (s.offerItem item).port m = { s.port m with counters := c } := by
  rcases offerItem_cases s item with ⟨_, h⟩ | ⟨_, line, _, h⟩
  · exact ⟨_, by rw [h]; rfl⟩
  · rw [h, placeStartMarks_port]
    simp only [State.countLine, port_mapPort_eq]
    split
    · rename_i h1; subst h1; exact ⟨_, rfl⟩
    · exact ⟨_, rfl⟩

/-! ### The request executor (R145, R148, R149) -/

theorem answered_link (r : Request) (status : Status) (results : List Byte) :
    (s.answered r status results).link =
      { s.link with
        executing := none
        replies := s.link.replies ++ [replyTo r status results]
        cache := (s.link.cache ++ [replyTo r status results]).drop (s.link.cache.length - 3) } := by
  have : byteAt r.payload 0 = r.payload.headD 0 := by cases r.payload <;> rfl
  simp [State.answered, cacheReply, replyPayload, replyTo, Config.cachedReplies, this]

variable {s}

theorem requestFor_offered {r : Request} {rest : List Request} (h : s.Offers r rest) {command : Instr}
    (hc : requestCommand r.payload = command) : s.requestFor command = some r := by
  simp [State.requestFor, State.mayTakeRequest, h.free, h.waiting, Config.listedReplies, h.room, hc]

/-- R148: the executor takes no request for a row while it holds one that does not wait for that row, or, holding none,
while 8 replies are listed, none waits, or the oldest is of another row. -/
theorem requestFor_none (command : Instr)
    (held : ∀ e, s.link.executing = some e → e.hold ≠ .atTagTable ∨ requestCommand e.request.payload ≠ command)
    (free : s.link.executing = none → 8 ≤ s.link.replies.length ∨ s.link.requests = [] ∨
      ∃ r rest, s.link.requests = r :: rest ∧ requestCommand r.payload ≠ command) :
    s.requestFor command = none := by
  cases he : s.link.executing with
  | some e => rcases held e he with h | h <;> simp [State.requestFor, he, h]
  | none =>
    rcases free he with h | h | ⟨r, rest, h, hc⟩
    · have h8 : ¬ s.link.replies.length < 8 := Nat.not_lt.2 h
      simp [State.requestFor, State.mayTakeRequest, he, Config.listedReplies, h8]
    · simp [State.requestFor, State.mayTakeRequest, he, h]
    · simp [State.requestFor, he, h, hc]

theorem carryOut_none (command : Instr) (rule : List Byte → State → Answer) (h : s.requestFor command = none) :
    s.carryOut command rule = s := by simp [State.carryOut, h]

theorem startExecuting_link {r : Request} {rest : List Request} (h : s.Offers r rest) :
    (s.startExecuting r).link = { s.link with requests := rest, executing := some ⟨r, .atTagTable⟩ } := by
  simp [State.startExecuting, h.free, h.waiting]

/-- R172, R149: a request of the wrong length is refused with FORMAT, and nothing else changes. -/
theorem carryOut_format {r : Request} {rest : List Request} (h : s.Offers r rest) {command : Instr}
    (rule : List Byte → State → Answer) (hc : requestCommand r.payload = command)
    (hl : r.payload.length ≠ requestLength command) :
    s.carryOut command rule = { s with link := s.link.replied r .format [] } := by
  have hb : byteAt r.payload 0 = r.payload.headD 0 := by cases r.payload <;> rfl
  simp [State.carryOut, requestFor_offered h hc, hl, State.answered, State.startExecuting, h.free, h.waiting,
    HostLink.replied, cacheReply, replyPayload, replyTo, Config.cachedReplies, hb]

/-- R148: a request of the right length, not of the Tag Table, is answered by its rule. -/
theorem carryOut_rule {r : Request} {rest : List Request} (h : s.Offers r rest) {command : Instr}
    (rule : List Byte → State → Answer) (hc : requestCommand r.payload = command)
    (hl : r.payload.length = requestLength command) (ht : isTagRequest command = false) :
    s.carryOut command rule =
      (s.startExecuting r).conclude r (rule r.payload.tail (s.startExecuting r)) := by
  simp [State.carryOut, requestFor_offered h hc, hl, ht]

/-- R148, R33: a Tag Table request of the right length is answered by its rule once the Tag Table is free. -/
theorem carryOut_tagRule {r : Request} {rest : List Request} (h : s.OffersTag r rest) {command : Instr}
    (rule : List Byte → State → Answer) (hc : requestCommand r.payload = command)
    (hl : r.payload.length = requestLength command) :
    s.carryOut command rule =
      (s.startExecuting r).conclude r (rule r.payload.tail (s.startExecuting r)) := by
  have hf : (s.startExecuting r).tagTableFree = true := by
    rw [show (s.startExecuting r).tagTableFree = s.tagTableFree from rfl]
    simp [State.tagTableFree, h.idle, h.current]
  simp [State.carryOut, requestFor_offered h.toOffers hc, hl, hf]

/-- R149: a refusal answers with its status, and nothing but the host link changes. -/
theorem conclude_refuse {r : Request} {rest : List Request} (h : s.Offers r rest) (status : Status) :
    (s.startExecuting r).conclude r (.refuse status) = { s with link := s.link.replied r status [] } := by
  have hb : byteAt r.payload 0 = r.payload.headD 0 := by cases r.payload <;> rfl
  simp [State.conclude, State.answered, State.startExecuting, h.free, h.waiting, HostLink.replied, cacheReply,
    replyPayload, replyTo, Config.cachedReplies, hb]

/-- R148: a request with an effect answers OK with its results; the effect is on everything but the host link. -/
theorem conclude_ok {r : Request} {rest : List Request} (h : s.Offers r rest) (t : State) (results : List Byte)
    (ht : t.link = (s.startExecuting r).link) :
    (s.startExecuting r).conclude r (.ok t results) = { t with link := s.link.replied r .ok results } := by
  have hb : byteAt r.payload 0 = r.payload.headD 0 := by cases r.payload <;> rfl
  rw [startExecuting_link h] at ht
  simp [State.conclude, State.answered, ht, HostLink.replied, cacheReply, replyPayload, replyTo,
    Config.cachedReplies, hb, h.waiting]

/-! ### Bytes of fields (R172) -/

theorem fromBytes_foldl (l : List Byte) (a : Nat) :
    l.foldl (fun acc b => acc * 256 + b.toNat) a = a * 256 ^ l.length + fromBytes l := by
  induction l generalizing a with
  | nil => simp [fromBytes]
  | cons b t ih =>
    rw [fromBytes, List.foldl_cons, List.foldl_cons, ih, ih (0 * 256 + b.toNat)]
    simp only [List.length_cons, pow_succ]; ring

theorem fromBytes_cons (b : Byte) (l : List Byte) :
    fromBytes (b :: l) = b.toNat * 256 ^ l.length + fromBytes l := by
  rw [fromBytes, List.foldl_cons, fromBytes_foldl]; simp

@[simp] theorem bigEndian_length (n x : Nat) : (bigEndian n x).length = n := by
  induction n with
  | zero => rfl
  | succ n ih => simp [bigEndian, ih]

/-- A number that fits its bytes is read back from them. -/
theorem fromBytes_bigEndian (n x : Nat) : fromBytes (bigEndian n x) = x % 256 ^ n := by
  induction n with
  | zero => simp [bigEndian, fromBytes, Nat.mod_one]
  | succ n ih =>
    have h := Nat.mod_mul (a := 256 ^ n) (b := 256) (x := x)
    rw [← pow_succ] at h
    rw [bigEndian, fromBytes_cons, ih, bigEndian_length, BitVec.toNat_ofNat, h, Nat.add_comm, Nat.mul_comm]

/-- A field is read back from where its bytes stand. -/
theorem numberAt_append (pre post : List Byte) (n x : Nat) (h : x < 256 ^ n) :
    numberAt (pre ++ (bigEndian n x ++ post)) pre.length n = x := by
  simp [numberAt, fromBytes_bigEndian, Nat.mod_eq_of_lt h]

/-! ### Happenings and runs -/

/-- R137: a happening takes place while RSTn is high. -/
theorem happen_running (effect : State → State) (h : s.held = false) : s.happen effect = .next (effect s) := by
  simp [State.happen, h]

/-- R137: while RSTn is low nothing happens. -/
theorem happen_held (effect : State → State) (h : s.held = true) : s.happen effect = .next s := by
  simp [State.happen, h]

/-- A request that its rule accepts: the effect, and the reply OK with the results (R148). -/
theorem request_ok {r : Request} {rest : List Request} (h : s.Offers r rest) {command : Instr}
    {rule : List Byte → State → Answer} (hc : requestCommand r.payload = command)
    (hl : r.payload.length = requestLength command) (ht : isTagRequest command = false) (t : State)
    (results : List Byte) (hr : rule r.payload.tail (s.startExecuting r) = .ok t results)
    (hk : t.link = (s.startExecuting r).link) :
    s.happen (State.carryOut command rule) = .next { t with link := s.link.replied r .ok results } := by
  rw [happen_running _ h.running, carryOut_rule h rule hc hl ht, hr, conclude_ok h _ _ hk]

/-- A request that its rule refuses: its status, and no other effect (R149). -/
theorem request_refused {r : Request} {rest : List Request} (h : s.Offers r rest) {command : Instr}
    {rule : List Byte → State → Answer} (hc : requestCommand r.payload = command)
    (hl : r.payload.length = requestLength command) (ht : isTagRequest command = false) (status : Status)
    (hr : rule r.payload.tail (s.startExecuting r) = .refuse status) :
    s.happen (State.carryOut command rule) = .next { s with link := s.link.replied r status [] } := by
  rw [happen_running _ h.running, carryOut_rule h rule hc hl ht, hr, conclude_refuse h]

/-- A Tag Table request that its rule accepts (R33, R148). -/
theorem tagRequest_ok {r : Request} {rest : List Request} (h : s.OffersTag r rest) {command : Instr}
    {rule : List Byte → State → Answer} (hc : requestCommand r.payload = command)
    (hl : r.payload.length = requestLength command) (t : State) (results : List Byte)
    (hr : rule r.payload.tail (s.startExecuting r) = .ok t results)
    (hk : t.link = (s.startExecuting r).link) :
    s.happen (State.carryOut command rule) = .next { t with link := s.link.replied r .ok results } := by
  rw [happen_running _ h.running, carryOut_tagRule h rule hc hl, hr, conclude_ok h.toOffers _ _ hk]

/-- A Tag Table request that its rule refuses (R33, R149). -/
theorem tagRequest_refused {r : Request} {rest : List Request} (h : s.OffersTag r rest) {command : Instr}
    {rule : List Byte → State → Answer} (hc : requestCommand r.payload = command)
    (hl : r.payload.length = requestLength command) (status : Status)
    (hr : rule r.payload.tail (s.startExecuting r) = .refuse status) :
    s.happen (State.carryOut command rule) = .next { s with link := s.link.replied r status [] } := by
  rw [happen_running _ h.running, carryOut_tagRule h rule hc hl, hr, conclude_refuse h.toOffers]

/-- Carrying out two lists one after the other is carrying out their concatenation. -/
theorem runCommands_append (l m : List Instr) {t : State} (h : runCommands l s = .next t) :
    runCommands (l ++ m) s = runCommands m t := by
  induction l generalizing s with
  | nil => simp only [runCommands, Host.Outcome.next.injEq] at h; subst h; rfl
  | cons c rest ih =>
    simp only [List.cons_append, runCommands] at h ⊢
    split at h
    · exact ih h
    · simp at h
    · simp at h

/-! ### What the drivers do (R3, R13) -/

@[simp] theorem wordHalfBits_length (word : LineBits) : (wordHalfBits word).length = 40 := by simp [wordHalfBits]

theorem wordHalfBits_getElem (word : LineBits) (k : Nat) (h : k < (wordHalfBits word).length) :
    (wordHalfBits word)[k] = halfBits (word.getMsbD k) := by simp [wordHalfBits]

/-- A list flattened from pairs, read at a place. -/
theorem flatMap_pair_getElem? {α : Type} (l : List (α × α)) (k : Nat) :
    (l.flatMap fun p => [p.1, p.2])[2 * k]? = l[k]?.map Prod.fst ∧
      (l.flatMap fun p => [p.1, p.2])[2 * k + 1]? = l[k]?.map Prod.snd := by
  induction l generalizing k with
  | nil => simp
  | cons p rest ih =>
    cases k with
    | zero => simp
    | succ k => simpa [Nat.mul_succ] using ih k

/-- R3: the first and the second half of the bit with number `k + 1`. -/
theorem wordSenses_getElem? (word : LineBits) (k : Nat) (h : k < 40) :
    (wordSenses word)[2 * k]? = some (halfBits (word.getMsbD k)).1 ∧
      (wordSenses word)[2 * k + 1]? = some (halfBits (word.getMsbD k)).2 := by
  have hk : (wordHalfBits word)[k]? = some (halfBits (word.getMsbD k)) := by
    simp [List.getElem?_eq_getElem (show k < (wordHalfBits word).length by simpa using h), wordHalfBits_getElem]
  simpa [wordSenses, hk] using flatMap_pair_getElem? (wordHalfBits word) k

@[simp] theorem wordSenses_length (word : LineBits) : (wordSenses word).length = 80 := by
  simp [wordSenses, List.length_flatMap]

theorem drive_dormant (n : LineNo) (h : (s.port n).transmitter = .dormant) : s.drive n = .released := by
  simp [State.drive, h]

theorem drive_free (n : LineNo) (hr : s.held = false) (h : (s.port n).transmitter = .free) : s.drive n = .null := by
  simp [State.drive, h, hr]

theorem drive_spacing (n : LineNo) (word : LineBits) (ends : Nat) (hr : s.held = false)
    (h : (s.port n).transmitter = .spacing word ends) : s.drive n = .null := by
  simp [State.drive, h, hr]

theorem drive_sending (n : LineNo) (word : LineBits) (ends : Nat) (hr : s.held = false)
    (h : (s.port n).transmitter = .sending word ends) :
    s.drive n = ((wordSenses word)[s.halfBitTimes n ends]?.map Drive.sends).getD .null := by
  simp [State.drive, h, hr]

theorem drive_held (n : LineNo) (hr : s.held = true) : s.drive n = .released := by
  simp only [State.drive, hr, if_true]; split <;> rfl

end Sys2Proof.Laws
end

