-- ==== Sys2Proof/Laws/Bytes.lean ====
section
/-! SUPPORT. Fields and settings of requests are read back from the bytes that carry them. -/

namespace Sys2Proof.Laws

-- One theorem after another: elaborating them all at once costs a thread and its stack for each.
set_option Elab.async false

open Sys2Proof.Machine

/-- A field is read back from where its bytes stand in a list. -/
theorem numberAt_of_eq (l pre post : List Byte) (k n x : Nat) (hl : l = pre ++ (bigEndian n x ++ post)) (hk : pre.length = k) (h : x < 256 ^ n) : numberAt l k n = x := by
  subst hl hk; exact numberAt_append pre post n x h
/-- A key is read back from its bytes (section 11.2). -/
theorem keyOf_keyBytes (key : Key) (post : List Byte) : keyOf (keyBytes key ++ post) 0 = some key := by
  rcases key with ⟨l, t⟩
  have h1 : numberAt (keyBytes ⟨l, t⟩ ++ post) 1 2 = t.toNat :=
    numberAt_of_eq _ [BitVec.ofNat 8 l.number] post 1 2 t.toNat (by simp [keyBytes]) rfl (by have := t.isLt; omega)
  have h2 : keyLineOf (byteAt (keyBytes ⟨l, t⟩ ++ post) 0) = some l := by
    simp [keyBytes, byteAt]
    cases l with
    | any => rfl
    | port n => clear h1; revert n; decide
  have h3 : tagOf t.toNat = some t := by
    have := t.isLt
    simp [tagOf]; omega
  simp [keyOf, h1, h2, h3]
/-- Entry settings in range are read back from their bytes (section 11.2, R21, R173). -/
theorem entrySettingsOf_bytes (t : EntrySettings) (h : t.InRange) (pre post : List Byte) (k : Nat) (hk : pre.length = k) : entrySettingsOf (pre ++ (entrySettingsBytes t ++ post)) k = some t := by
  subst hk
  rcases t with ⟨rl, rm, kl, oc, nt, dl, mi, ea, ne⟩
  have b0 : ∀ j, byteAt (pre ++ (entrySettingsBytes ⟨rl, rm, kl, oc, nt, dl, mi, ea, ne⟩ ++ post)) (pre.length + j) = byteAt (entrySettingsBytes ⟨rl, rm, kl, oc, nt, dl, mi, ea, ne⟩ ++ post) j := by
    intro j; simp [byteAt, List.getElem?_append]
  have hd := h.deadline
  have hm := h.minInterval
  have d1 : optionalNumber dl < 65536 := by cases dl with | none => simp [optionalNumber] | some v => have := (hd v rfl); simp [optionalNumber]; omega
  have d2 : optionalNumber mi < 65536 := by cases mi with | none => simp [optionalNumber] | some v => have := (hm v rfl); simp [optionalNumber]; omega
  have n1 : numberAt (pre ++ (entrySettingsBytes ⟨rl, rm, kl, oc, nt, dl, mi, ea, ne⟩ ++ post)) (pre.length + 4) 2 = optionalNumber dl :=
    numberAt_of_eq _ (pre ++ [BitVec.ofNat 8 (rl.toNat + 2 * rm.toNat), yesNoByte kl, yesNoByte oc, notifyByte nt]) (bigEndian 2 (optionalNumber mi) ++ ([earlyActionByte ea, yesNoByte ne] ++ post)) _ 2 _ (by simp [entrySettingsBytes]) (by simp) (by omega)
  have n2 : numberAt (pre ++ (entrySettingsBytes ⟨rl, rm, kl, oc, nt, dl, mi, ea, ne⟩ ++ post)) (pre.length + 6) 2 = optionalNumber mi :=
    numberAt_of_eq _ (pre ++ ([BitVec.ofNat 8 (rl.toNat + 2 * rm.toNat), yesNoByte kl, yesNoByte oc, notifyByte nt] ++ bigEndian 2 (optionalNumber dl))) (([earlyActionByte ea, yesNoByte ne] ++ post)) _ 2 _ (by simp [entrySettingsBytes]) (by simp) (by omega)
  have o1 : optionalMsOf (optionalNumber dl) = some dl := by
    cases dl with | none => rfl | some v => have hh : 1 ≤ v ∧ v ≤ 60000 := hd v rfl; show optionalMsOf v = _; unfold optionalMsOf; rw [if_neg (by omega), if_pos (by omega)]
  have o2 : optionalMsOf (optionalNumber mi) = some mi := by
    cases mi with | none => rfl | some v => have hh : 1 ≤ v ∧ v ≤ 60000 := hm v rfl; show optionalMsOf v = _; unfold optionalMsOf; rw [if_neg (by omega), if_pos (by omega)]
  have b00 := b0 0
  simp only [Nat.add_zero] at b00
  simp only [entrySettingsOf, b00, b0 1, b0 2, b0 3, b0 8, b0 9, n1, n2, o1, o2]
  simp [entrySettingsBytes, byteAt, bigEndian]
  cases rl <;> cases rm <;> cases kl <;> cases oc <;> cases nt <;> cases ea <;> cases ne <;> rfl
/-- Slot settings in range are read back from their bytes (section 11.2, R94, R173). -/
theorem slotSettingsOf_bytes (t : SlotSettings) (h : t.InRange) (pre post : List Byte) (k : Nat) (line : LineNo) (hk : pre.length = k) : slotSettingsOf (pre ++ ((slotSettingsBytes line t).tail ++ post)) k = some t := by
  subst hk
  rcases t with ⟨tag, value, period, phase, mode, limit, en, nm, nd⟩
  have hp := h.period
  have hph := h.phase
  have hl := h.limit
  simp only at hp hph hl
  have ht := tag.isLt
  have hv := value.isLt
  have d1 : optionalNumber limit < 65536 := by cases limit with | none => simp [optionalNumber] | some v => have := (hl v rfl); simp [optionalNumber]; omega
  generalize hL : pre ++ ((slotSettingsBytes line ⟨tag, value, period, phase, mode, limit, en, nm, nd⟩).tail ++ post) = L
  have e : L = pre ++ (bigEndian 2 tag.toNat ++ bigEndian 3 value.toNat ++ bigEndian 2 period ++
    bigEndian 2 phase ++ [slotModeByte mode] ++ bigEndian 2 (optionalNumber limit) ++
    [yesNoByte en, yesNoByte nm, yesNoByte nd] ++ post) := by rw [← hL]; simp [slotSettingsBytes]
  have n1 : numberAt L pre.length 2 = tag.toNat := numberAt_of_eq _ pre _ _ 2 _ (by rw [e]; simp only [List.append_assoc]; rfl) rfl (by omega)
  have n2 : numberAt L (pre.length + 2) 3 = value.toNat := numberAt_of_eq _ (pre ++ bigEndian 2 tag.toNat) _ _ 3 _ (by rw [e]; simp only [List.append_assoc]; rfl) (by simp) (by omega)
  have n3 : numberAt L (pre.length + 5) 2 = period := numberAt_of_eq _ (pre ++ bigEndian 2 tag.toNat ++ bigEndian 3 value.toNat) _ _ 2 _ (by rw [e]; simp only [List.append_assoc]; rfl) (by simp) (by omega)
  have n4 : numberAt L (pre.length + 7) 2 = phase := numberAt_of_eq _ (pre ++ bigEndian 2 tag.toNat ++ bigEndian 3 value.toNat ++ bigEndian 2 period) _ _ 2 _ (by rw [e]; simp only [List.append_assoc]; rfl) (by simp) (by omega)
  have n5 : numberAt L (pre.length + 10) 2 = optionalNumber limit := numberAt_of_eq _ (pre ++ bigEndian 2 tag.toNat ++ bigEndian 3 value.toNat ++ bigEndian 2 period ++ bigEndian 2 phase ++ [slotModeByte mode]) _ _ 2 _ (by rw [e]; simp only [List.append_assoc]; rfl) (by simp) (by omega)
  have b0 : ∀ j, byteAt L (pre.length + j) = byteAt ((slotSettingsBytes line ⟨tag, value, period, phase, mode, limit, en, nm, nd⟩).tail ++ post) j := by
    intro j; rw [← hL]; simp [byteAt, List.getElem?_append]
  have h3 : tagOf tag.toNat = some tag := by
    simp [tagOf]; omega
  have hlim : (if optionalNumber limit = 0 then none else some (optionalNumber limit)) = limit := by
    cases limit with | none => rfl | some v => have hh : 1 ≤ v ∧ v ≤ 65535 := hl v rfl; show (if v = 0 then none else some v) = some v; rw [if_neg (by omega)]
  simp only [slotSettingsOf, n1, n2, n3, n4, n5, b0, h3, hlim]
  have hph' : orDefault16 0 phase = phase := by simp [orDefault16]; omega
  simp [slotSettingsBytes, byteAt, bigEndian, hph', hph, hp.1]
  cases mode <;> cases en <;> cases nm <;> cases nd <;> rfl

/-- A line configuration whose echo threshold is in range is read back from its bytes (section 11.2, R173). -/
theorem lineConfigOf_bytes (c : LineConfig) (h : 1 ≤ c.echoThreshold ∧ c.echoThreshold ≤ 15) (pre post : List Byte)
    (k : Nat) (hk : pre.length = k) : lineConfigOf (pre ++ (lineConfigBytes c ++ post)) k = some c := by
  subst hk
  rcases c with ⟨role, rate, ce, en, mr, pol, th, ke⟩
  have b0 : ∀ j, byteAt (pre ++ (lineConfigBytes ⟨role, rate, ce, en, mr, pol, th, ke⟩ ++ post)) (pre.length + j) =
      byteAt (lineConfigBytes ⟨role, rate, ce, en, mr, pol, th, ke⟩ ++ post) j := by
    intro j; simp [byteAt, List.getElem?_append]
  have b00 := b0 0
  simp only [Nat.add_zero] at b00
  simp only at h
  have h1 : (BitVec.ofNat 8 th).toNat = th := by simp; omega
  have h2 : orDefault 3 thresholdOf (BitVec.ofNat 8 th) = some th := by
    have : BitVec.ofNat 8 th ≠ 0xFF := by
      intro e; have := congrArg BitVec.toNat e; rw [h1] at this; simp at this; omega
    unfold orDefault thresholdOf
    rw [if_neg this, h1, if_pos h]
  simp only [lineConfigOf, b00, b0 1, b0 2, b0 3, b0 4, b0 5, b0 6, b0 7]
  simp only [lineConfigBytes, byteAt, List.cons_append, List.getD_cons_zero, List.getD_cons_succ, h2]
  cases role <;> cases rate <;> cases ce <;> cases en <;> cases mr <;> cases pol <;> cases ke <;> rfl

/-! ### Settings with their defaults (R173) -/

/-- A field of R173's list: its byte is read as a value exactly where the byte carries that value. -/
theorem orDefault_iff {α : Type} {code : α → Byte} {read : Byte → Option α} (hread : ∀ b v, read b = some v ↔ b = code v)
    (hcode : ∀ v, code v ≠ 0xFF) (default v : α) (b : Byte) :
    orDefault default read b = some v ↔ Carries code default v b := by
  unfold orDefault Carries
  split
  · rename_i h
    subst h
    constructor
    · intro e; exact .inr ⟨rfl, by simpa using e.symm⟩
    · rintro (e | ⟨-, e⟩)
      · exact absurd e.symm (hcode v)
      · rw [e]
  · rename_i h
    rw [hread]
    constructor
    · exact .inl
    · rintro (e | ⟨e, -⟩)
      · exact e
      · exact absurd e h

/-- Bytes are equal where their numbers are. -/
theorem byte_eq_iff (b c : Byte) : b = c ↔ b.toNat = c.toNat := (BitVec.toNat_inj).symm

/-- A yes or no field is read from its code (Table 11-5). -/
theorem yesNoOf_iff (b : Byte) (v : Bool) : yesNoOf b = some v ↔ b = yesNoByte v := by
  rw [byte_eq_iff]; unfold yesNoOf; split <;> cases v <;> simp_all [yesNoByte]

/-- A role is read from its code (Table 11-5). -/
theorem roleOf_iff (b : Byte) (v : Role) : roleOf b = some v ↔ b = roleByte v := by
  rw [byte_eq_iff]; unfold roleOf; split <;> cases v <;> simp_all [roleByte]

/-- A rate is read from its code (Table 11-5). -/
theorem rateOf_iff (b : Byte) (v : Rate) : rateOf b = some v ↔ b = rateByte v := by
  rw [byte_eq_iff]; unfold rateOf; split <;> cases v <;> simp_all [rateByte]

/-- A miss route is read from its code (Table 11-5). -/
theorem missRouteOf_iff (b : Byte) (v : MissRoute) : missRouteOf b = some v ↔ b = missRouteByte v := by
  rw [byte_eq_iff]; unfold missRouteOf; split <;> cases v <;> simp_all [missRouteByte]

/-- A transmit policy is read from its code (Table 11-5). -/
theorem policyOf_iff (b : Byte) (v : TransmitPolicy) : policyOf b = some v ↔ b = policyByte v := by
  rw [byte_eq_iff]; unfold policyOf; split <;> cases v <;> simp_all [policyByte]

/-- A notify setting is read from its code (Table 11-5). -/
theorem notifyOf_iff (b : Byte) (v : Notify) : notifyOf b = some v ↔ b = notifyByte v := by
  rw [byte_eq_iff]; unfold notifyOf; split <;> cases v <;> simp_all [notifyByte]

/-- An early action is read from its code (Table 11-5). -/
theorem earlyActionOf_iff (b : Byte) (v : EarlyAction) : earlyActionOf b = some v ↔ b = earlyActionByte v := by
  rw [byte_eq_iff]; unfold earlyActionOf; split <;> cases v <;> simp_all [earlyActionByte]

/-- A slot mode is read from its code (Table 11-5). -/
theorem slotModeOf_iff (b : Byte) (v : SlotMode) : slotModeOf b = some v ↔ b = slotModeByte v := by
  rw [byte_eq_iff]; unfold slotModeOf; split <;> cases v <;> simp_all [slotModeByte]

/-- A route is read from its byte (R173). -/
theorem routeOf_iff (b : Byte) (v : Bool × Bool) : routeOf b = some v ↔ b = routeByte v := by
  revert b v; unfold routeOf; decide

/-- A deadline or min interval is read from the field that carries it (R21, R173). -/
theorem optionalMsOf_iff (n : Nat) (v : Option Nat) :
    optionalMsOf n = some v ↔ CarriesMs v n ∧ ∀ ms ∈ v, 1 ≤ ms ∧ ms ≤ 60000 := by
  unfold optionalMsOf CarriesMs
  cases v with
  | none =>
    have h : (∀ ms ∈ (none : Option Nat), 1 ≤ ms ∧ ms ≤ 60000) ↔ True := by simp
    rw [h, and_true]
    split
    · simp only [true_iff]; omega
    · split <;> simp only [reduceCtorEq, Option.some.injEq, false_iff] <;> omega
  | some ms =>
    simp only [Option.mem_def, Option.some.injEq, forall_eq']
    split
    · simp; omega
    · split
      · simp only [Option.some.injEq]; omega
      · simp only [reduceCtorEq, false_iff]; omega

/-- Bytes are the encoding of the number they spell (R172). -/
theorem bigEndian_fromBytes (l : List Byte) : bigEndian l.length (fromBytes l) = l := by
  have key : ∀ (l : List Byte) (acc : Nat), bigEndian l.length (l.foldl (fun acc b => acc * 256 + b.toNat) acc) = l := by
    intro l
    induction l using List.reverseRecOn with
    | nil => intro _; rfl
    | append_singleton l b ih =>
      intro acc
      have be : ∀ n x, bigEndian (n+1) x = bigEndian n (x/256) ++ [BitVec.ofNat 8 x] := by
        intro n
        induction n with
        | zero => intro x; simp [bigEndian]
        | succ n ih2 => 
          intro x
          rw [bigEndian, ih2, bigEndian, Nat.div_div_eq_div_mul, ← Nat.pow_succ']; rfl
      rw [List.length_append, List.length_singleton, be, List.foldl_append]
      have h1 : (List.foldl (fun acc b => acc * 256 + b.toNat) acc l * 256 + b.toNat) / 256 = List.foldl (fun acc b => acc * 256 + b.toNat) acc l := by have := b.isLt; omega
      have h2 : BitVec.ofNat 8 (List.foldl (fun acc b => acc * 256 + b.toNat) acc l * 256 + b.toNat) = b := by
        apply BitVec.eq_of_toNat_eq; simp; exact b.isLt
      simp only [List.foldl_cons, List.foldl_nil, h1, ih, h2]
  exact key l 0

/-- The number that bytes spell fits them (R172). -/
theorem fromBytes_lt (l : List Byte) : fromBytes l < 256 ^ l.length := by
  have key : ∀ (l : List Byte) (acc m : Nat), acc < 256^m → l.foldl (fun acc b => acc * 256 + b.toNat) acc < 256^(m + l.length) := by
    intro l
    induction l with
    | nil => intro acc m h; simpa using h
    | cons b l ih =>
      intro acc m h
      have := ih (acc*256 + b.toNat) (m+1) (by rw [Nat.pow_succ]; have := b.isLt; omega)
      simp only [List.foldl_cons, List.length_cons]
      rwa [show m + (l.length+1) = m+1+l.length by omega]
  have := key l 0 0 (by simp)
  rwa [Nat.zero_add] at this

/-- Numbers that fit their bytes are told apart by them (R172). -/
theorem bigEndian_inj (n x y : Nat) (hx : x < 256^n) (hy : y < 256^n) (h : bigEndian n x = bigEndian n y) : x = y := by
  have := congrArg fromBytes h
  have e := fun z (hz : z < 256^n) => numberAt_of_eq (bigEndian n z) [] [] 0 n z (by simp) rfl hz
  have l : ∀ z, (bigEndian n z).length = n := by intro z; induction n with
    | zero => rfl
    | succ n ih => simp [bigEndian]
  have ex := e x hx; have ey := e y hy
  unfold numberAt at ex ey
  rw [List.drop_zero, List.take_of_length_le (by rw [l])] at ex ey
  rw [← ex, ← ey, h]

/-- A byte of a field is found where it stands. -/
theorem byteAt_append_add (pre rest : List Byte) (j : Nat) : byteAt (pre ++ rest) (pre.length + j) = byteAt rest j := by
  simp [byteAt, List.getElem?_append]

/-- A number is found where its bytes stand. -/
theorem numberAt_append_add (pre rest : List Byte) (j n : Nat) :
    numberAt (pre ++ rest) (pre.length + j) n = numberAt rest j n := by
  simp [numberAt, List.drop_append, List.drop_eq_nil_of_le]

/-- A field that carries a deadline or min interval in range fits two bytes. -/
theorem carriesMs_lt {v : Option Nat} {n : Nat} (h : CarriesMs v n) (hv : ∀ ms ∈ v, 1 ≤ ms ∧ ms ≤ 60000) : n < 65536 := by
  unfold CarriesMs at h
  cases v with
  | none => simp only at h; omega
  | some ms => have := hv ms rfl; simp only at h; omega

/-- Two bytes are the encoding of the number they spell. -/
theorem pair_of (a b : Byte) : [a, b] = bigEndian 2 (fromBytes [a, b]) := (bigEndian_fromBytes [a, b]).symm

/-- Bytes are read as entry settings exactly where they carry them (section 11.2, R21, R173). -/
theorem entrySettingsOf_iff (t : EntrySettings) (bytes pre post : List Byte) (hb : bytes.length = 10) :
    entrySettingsOf (pre ++ (bytes ++ post)) pre.length = some t ↔ t.Encoded bytes := by
  obtain ⟨b0, b1, b2, b3, b4, b5, b6, b7, b8, b9, rfl⟩ : ∃ b0 b1 b2 b3 b4 b5 b6 b7 b8 b9, bytes = [b0, b1, b2, b3, b4, b5, b6, b7, b8, b9] := by
    match bytes, hb with
    | [b0, b1, b2, b3, b4, b5, b6, b7, b8, b9], _ => exact ⟨_, _, _, _, _, _, _, _, _, _, rfl⟩
  have h0 := byteAt_append_add pre ([b0, b1, b2, b3, b4, b5, b6, b7, b8, b9] ++ post) 0
  simp only [Nat.add_zero] at h0
  have e : entrySettingsOf (pre ++ ([b0, b1, b2, b3, b4, b5, b6, b7, b8, b9] ++ post)) pre.length = some t ↔
      orDefault (true, false) routeOf b0 = some (t.routeLine, t.routeMerged) ∧ orDefault false yesNoOf b1 = some t.keepLatest ∧
      orDefault false yesNoOf b2 = some t.onChange ∧ orDefault .none notifyOf b3 = some t.notify ∧
      optionalMsOf (fromBytes [b4, b5]) = some t.deadline ∧ optionalMsOf (fromBytes [b6, b7]) = some t.minInterval ∧
      orDefault .keep earlyActionOf b8 = some t.earlyAction ∧ orDefault false yesNoOf b9 = some t.notifyEarly := by
    simp only [entrySettingsOf, h0, byteAt_append_add, numberAt_append_add]
    simp only [byteAt, numberAt, List.cons_append, List.getD_cons_zero, List.getD_cons_succ, List.drop_succ_cons, List.drop_zero, List.take_succ_cons, List.take_zero, Option.bind_eq_bind, Option.bind_eq_some_iff, Option.some.injEq]
    constructor
    · rintro ⟨r, h1, a2, h2, a3, h3, a4, h4, a5, h5, a6, h6, a7, h7, a8, h8, rfl⟩
      exact ⟨h1, h2, h3, h4, h5, h6, h7, h8⟩
    · rintro ⟨h1, h2, h3, h4, h5, h6, h7, h8⟩
      exact ⟨_, h1, _, h2, _, h3, _, h4, _, h5, _, h6, _, h7, _, h8, rfl⟩
  rw [e, orDefault_iff routeOf_iff (by decide), orDefault_iff yesNoOf_iff (by decide), orDefault_iff yesNoOf_iff (by decide),
    orDefault_iff notifyOf_iff (by intro v; cases v <;> decide), optionalMsOf_iff, optionalMsOf_iff,
    orDefault_iff earlyActionOf_iff (by intro v; cases v <;> decide), orDefault_iff yesNoOf_iff (by decide)]
  constructor
  · rintro ⟨h1, h2, h3, h4, ⟨h5, g5⟩, ⟨h6, g6⟩, h7, h8⟩
    exact ⟨⟨g5, g6⟩, b0, b1, b2, b3, b8, b9, _, _, by rw [← pair_of, ← pair_of]; rfl, h1, h2, h3, h4, h5, h6, h7, h8⟩
  · rintro ⟨⟨g5, g6⟩, r0, r1, r2, r3, r8, r9, d, m, hl, h1, h2, h3, h4, h5, h6, h7, h8⟩
    have hd := carriesMs_lt h5 g5
    have hm := carriesMs_lt h6 g6
    have hl2 : [b0, b1, b2, b3] ++ [b4, b5] ++ [b6, b7] ++ [b8, b9] = [r0, r1, r2, r3] ++ bigEndian 2 d ++ bigEndian 2 m ++ [r8, r9] := hl
    rw [pair_of b4, pair_of b6] at hl2
    have l2 : ∀ x, (bigEndian 2 x).length = 2 := fun _ => rfl
    obtain ⟨hl3, hz⟩ := List.append_inj hl2 (by simp)
    obtain ⟨hl4, hy⟩ := List.append_inj hl3 (by simp)
    obtain ⟨hw, hx⟩ := List.append_inj hl4 (by simp)
    have ed := bigEndian_inj 2 _ _ (fromBytes_lt [b4, b5]) hd hx
    have em := bigEndian_inj 2 _ _ (fromBytes_lt [b6, b7]) hm hy
    simp only [List.cons.injEq, and_true] at hw hz
    obtain ⟨rfl, rfl, rfl, rfl⟩ := hw
    obtain ⟨rfl, rfl⟩ := hz
    rw [ed, em]
    exact ⟨h1, h2, h3, h4, ⟨h5, g5⟩, ⟨h6, g6⟩, h7, h8⟩

/-- An echo threshold is read from its byte where it is in range (Table 8-2). -/
theorem thresholdOf_iff (b : Byte) (v : Nat) : thresholdOf b = some v ↔ b = BitVec.ofNat 8 v ∧ 1 ≤ v ∧ v ≤ 15 := by
  unfold thresholdOf
  split
  · simp only [Option.some.injEq]
    constructor
    · rintro rfl; exact ⟨by simp, by assumption⟩
    · rintro ⟨rfl, h⟩; simp; omega
  · simp only [reduceCtorEq, false_iff]
    rintro ⟨rfl, h⟩
    simp at *; omega

/-- Bytes are read as a line configuration exactly where they carry it (section 11.2, R126, R173). -/
theorem lineConfigOf_iff (t : LineConfig) (bytes pre post : List Byte) (hb : bytes.length = 8) :
    lineConfigOf (pre ++ (bytes ++ post)) pre.length = some t ↔ t.Encoded bytes := by
  obtain ⟨b0, b1, b2, b3, b4, b5, b6, b7, rfl⟩ : ∃ b0 b1 b2 b3 b4 b5 b6 b7, bytes = [b0, b1, b2, b3, b4, b5, b6, b7] := by
    match bytes, hb with
    | [b0, b1, b2, b3, b4, b5, b6, b7], _ => exact ⟨_, _, _, _, _, _, _, _, rfl⟩
  have h0 := byteAt_append_add pre ([b0, b1, b2, b3, b4, b5, b6, b7] ++ post) 0
  simp only [Nat.add_zero] at h0
  have e : lineConfigOf (pre ++ ([b0, b1, b2, b3, b4, b5, b6, b7] ++ post)) pre.length = some t ↔
      orDefault .off roleOf b0 = some t.role ∧ orDefault .k50 rateOf b1 = some t.rate ∧
      orDefault false yesNoOf b2 = some t.captureErrors ∧ orDefault false yesNoOf b3 = some t.errorNotice ∧
      orDefault .none missRouteOf b4 = some t.missRoute ∧ orDefault .planFirst policyOf b5 = some t.policy ∧
      orDefault 3 thresholdOf b6 = some t.echoThreshold ∧ orDefault false yesNoOf b7 = some t.keepEcho := by
    simp only [lineConfigOf, h0, byteAt_append_add]
    simp only [byteAt, List.cons_append, List.getD_cons_zero, List.getD_cons_succ, Option.bind_eq_bind, Option.bind_eq_some_iff, Option.some.injEq]
    constructor
    · rintro ⟨r, h1, a2, h2, a3, h3, a4, h4, a5, h5, a6, h6, a7, h7, a8, h8, rfl⟩
      exact ⟨h1, h2, h3, h4, h5, h6, h7, h8⟩
    · rintro ⟨h1, h2, h3, h4, h5, h6, h7, h8⟩
      exact ⟨_, h1, _, h2, _, h3, _, h4, _, h5, _, h6, _, h7, _, h8, rfl⟩
  have e6 : orDefault 3 thresholdOf b6 = some t.echoThreshold ↔ (1 ≤ t.echoThreshold ∧ t.echoThreshold ≤ 15) ∧ Carries (BitVec.ofNat 8) 3 t.echoThreshold b6 := by
    unfold orDefault Carries
    split
    · rename_i h; subst h
      simp only [Option.some.injEq]
      constructor
      · rintro h; rw [← h]; exact ⟨by omega, .inr ⟨trivial, rfl⟩⟩
      · rintro ⟨h, h2 | h2⟩
        · have := congrArg BitVec.toNat h2; simp at this; omega
        · exact h2.2.symm
    · rename_i h
      rw [thresholdOf_iff]
      tauto
  rw [e, orDefault_iff roleOf_iff (by intro v; cases v <;> decide), orDefault_iff rateOf_iff (by intro v; cases v <;> decide), orDefault_iff yesNoOf_iff (by decide), orDefault_iff yesNoOf_iff (by decide),
    orDefault_iff missRouteOf_iff (by intro v; cases v <;> decide), orDefault_iff policyOf_iff (by intro v; cases v <;> decide), e6, orDefault_iff yesNoOf_iff (by decide)]
  constructor
  · rintro ⟨h1, h2, h3, h4, h5, h6, ⟨g, h7⟩, h8⟩
    exact ⟨g, b0, b1, b2, b3, b4, b5, b6, b7, rfl, h1, h2, h3, h4, h5, h6, h7, h8⟩
  · rintro ⟨g, r0, r1, r2, r3, r4, r5, r6, r7, hl, h1, h2, h3, h4, h5, h6, h7, h8⟩
    simp only [List.cons.injEq, and_true] at hl
    obtain ⟨rfl, rfl, rfl, rfl, rfl, rfl, rfl, rfl⟩ := hl
    exact ⟨h1, h2, h3, h4, h5, h6, ⟨g, h7⟩, h8⟩

/-- A tag is read from its number. -/
theorem tagOf_iff (n : Nat) (t : Tag) : tagOf n = some t ↔ n = t.toNat := by
  unfold tagOf
  have := t.isLt
  split
  · simp only [Option.some.injEq]
    constructor
    · rintro rfl; simp; omega
    · rintro rfl; simp
  · simp only [reduceCtorEq, false_iff]; omega

/-- Bytes are read as slot settings exactly where they carry them (section 11.2, R94, R173). -/
theorem slotSettingsOf_iff (t : SlotSettings) (bytes pre post : List Byte) (hb : bytes.length = 15) :
    slotSettingsOf (pre ++ (bytes ++ post)) pre.length = some t ↔ t.Encoded bytes := by
  obtain ⟨b0, b1, b2, b3, b4, b5, b6, b7, b8, b9, c0, c1, c2, c3, c4, rfl⟩ : ∃ b0 b1 b2 b3 b4 b5 b6 b7 b8 b9 c0 c1 c2 c3 c4, bytes = [b0, b1, b2, b3, b4, b5, b6, b7, b8, b9, c0, c1, c2, c3, c4] := by
    match bytes, hb with
    | [b0, b1, b2, b3, b4, b5, b6, b7, b8, b9, c0, c1, c2, c3, c4], _ => exact ⟨_, _, _, _, _, _, _, _, _, _, _, _, _, _, _, rfl⟩
  have h0 := numberAt_append_add pre ([b0, b1, b2, b3, b4, b5, b6, b7, b8, b9, c0, c1, c2, c3, c4] ++ post) 0
  simp only [Nat.add_zero] at h0
  have e : slotSettingsOf (pre ++ ([b0, b1, b2, b3, b4, b5, b6, b7, b8, b9, c0, c1, c2, c3, c4] ++ post)) pre.length = some t ↔
      fromBytes [b0, b1] = t.tag.toNat ∧ BitVec.ofNat 24 (fromBytes [b2, b3, b4]) = t.value ∧
      fromBytes [b5, b6] = t.period ∧ orDefault16 0 (fromBytes [b7, b8]) = t.phase ∧
      orDefault .always slotModeOf b9 = some t.mode ∧ (if fromBytes [c0, c1] = 0 then none else some (fromBytes [c0, c1])) = t.limit ∧
      orDefault true yesNoOf c2 = some t.enabled ∧ orDefault false yesNoOf c3 = some t.notifyMiss ∧
      orDefault false yesNoOf c4 = some t.notifyDone ∧ 5 ≤ t.period ∧ t.phase < t.period := by
    simp only [slotSettingsOf, h0, byteAt_append_add, numberAt_append_add]
    simp only [byteAt, numberAt, List.cons_append, List.getD_cons_zero, List.getD_cons_succ, List.drop_succ_cons, List.drop_zero, List.take_succ_cons, List.take_zero, Option.bind_eq_bind, Option.bind_eq_some_iff, tagOf_iff]
    constructor
    · rintro ⟨r, h1, a2, h2, a3, h3, a4, h4, a5, h5, h6⟩
      split at h6
      · simp only [Option.some.injEq] at h6; subst h6; exact ⟨h1, rfl, rfl, rfl, h2, rfl, h3, h4, h5, by assumption⟩
      · cases h6
    · rintro ⟨h1, h2, h3, h4, h5, h6, h7, h8, h9, g⟩
      refine ⟨_, h1, _, h5, _, h7, _, h8, _, h9, ?_⟩
      rw [if_pos (by rw [h3, h4]; exact g), h2, h3, h4, h6]
  rw [e, orDefault_iff yesNoOf_iff (by decide), orDefault_iff yesNoOf_iff (by decide), orDefault_iff yesNoOf_iff (by decide),
    orDefault_iff slotModeOf_iff (by intro v; cases v <;> decide)]
  have n2 : ∀ a b : Byte, fromBytes [a, b] < 65536 := by
    intro a b
    have h := fromBytes_lt [a, b]
    have e : (256 : Nat) ^ [a, b].length = 65536 := by norm_num
    omega
  have n3 : ∀ a b c : Byte, fromBytes [a, b, c] < 16777216 := by
    intro a b c
    have h := fromBytes_lt [a, b, c]
    have e : (256 : Nat) ^ [a, b, c].length = 16777216 := by norm_num
    omega
  constructor
  · rintro ⟨h1, h2, h3, h4, h5, h6, h7, h8, h9, g1, g2⟩
    have e3 : t.value.toNat = fromBytes [b2, b3, b4] := by rw [← h2]; simp; exact n3 _ _ _
    have e6 : t.limit.getD 0 = fromBytes [c0, c1] := by
      rw [← h6]; by_cases hz : fromBytes [c0, c1] = 0 <;> simp [hz]
    refine ⟨⟨⟨g1, by rw [← h3]; have := n2 b5 b6; omega⟩, g2, ?_⟩, b9, c2, c3, c4, fromBytes [b7, b8], ?_, ?_, h5, h7, h8, h9⟩
    · intro k hk; rw [← h6] at hk
      have := n2 c0 c1
      split at hk
      · cases hk
      · simp at hk; omega
    · rw [← h1, e3, ← h3, e6, ← pair_of, ← pair_of, ← pair_of, ← pair_of, show bigEndian 3 (fromBytes [b2, b3, b4]) = [b2, b3, b4] from bigEndian_fromBytes [b2, b3, b4]]; rfl
    · rw [← h4]; unfold orDefault16; split <;> simp_all
  · rintro ⟨⟨g1, g2, g3⟩, r9, s2, s3, s4, ph, hl, hp, h5, h7, h8, h9⟩
    have hv := t.value.isLt
    have ht := t.tag.isLt
    have hl2 : [b0, b1] ++ [b2, b3, b4] ++ [b5, b6] ++ [b7, b8] ++ [b9] ++ [c0, c1] ++ [c2, c3, c4] = _ := hl
    have t3 : [b2, b3, b4] = bigEndian 3 (fromBytes [b2, b3, b4]) := (bigEndian_fromBytes [b2, b3, b4]).symm
    rw [pair_of b0, t3, pair_of b5, pair_of b7, pair_of c0] at hl2
    obtain ⟨hl3, z7⟩ := List.append_inj hl2 (by simp)
    obtain ⟨hl4, z6⟩ := List.append_inj hl3 (by simp)
    obtain ⟨hl5, z5⟩ := List.append_inj hl4 (by simp)
    obtain ⟨hl6, z4⟩ := List.append_inj hl5 (by simp)
    obtain ⟨hl7, z3⟩ := List.append_inj hl6 (by simp)
    obtain ⟨z1, z2⟩ := List.append_inj hl7 (by simp)
    have hlim : t.limit.getD 0 < 65536 := by
      cases h : t.limit with
      | none => simp
      | some k => have := g3 k h; simp; omega
    have e1 := bigEndian_inj 2 _ _ (fromBytes_lt [b0, b1]) (by omega) z1
    have e2 := bigEndian_inj 3 _ _ (fromBytes_lt [b2, b3, b4]) (lt_of_lt_of_eq hv (by norm_num)) z2
    have e3 := bigEndian_inj 2 _ _ (fromBytes_lt [b5, b6]) (by omega) z3
    have e4 := bigEndian_inj 2 _ _ (fromBytes_lt [b7, b8]) (by omega) z4
    have e6 := bigEndian_inj 2 _ _ (fromBytes_lt [c0, c1]) (by omega) z6
    simp only [List.cons.injEq, and_true] at z5 z7
    obtain ⟨rfl, rfl, rfl⟩ := z7
    subst z5
    rw [e1, e2, e3, e4, e6]
    refine ⟨rfl, by simp, rfl, ?_, h5, ?_, h7, h8, h9, g1.1, g2⟩
    · unfold orDefault16; split <;> omega
    · cases h : t.limit with
      | none => simp
      | some k => have := g3 k h; simp; omega

end Sys2Proof.Laws
end

