-- ==== Sys2Proof/WellFormed.lean ====
section
/-! DEFINITION. Which commands are well formed. Lines, streams, slots, tags and bytes are in range by their types, so
the one check left is R3's: a decoded bit has two halves of opposite sense. -/

namespace Sys2Proof

/-- R3: "Both half-bits of every bit must be the opposite sense of one another." Every other command is well formed as
it stands. `exec` runs an ill-formed BIT_DECODED too: it is the coding violation that R3 says it is. -/
def Instr.wellFormed : Instr → Bool
  | .bitDecoded _ first second => first != second
  | .powerOn _ | .rstnLow | .pulseEdge | .armWindowExpiry | .firstEdge _ _ | .codingViolation _ | .endOfWord _
  | .missedWordEnded _ | .missingTimeReached _ | .endOfSending _ | .endOfSpacing _ | .transmitSelection _
  | .stopEnd _ | .slotDue _ | .intakeTake | .tagTableWorkDone | .freshnessExpiry _ _ | .byteReceived _ _ | .startBit
  | .interByteTimeout | .unknownRequest | .identify | .getStatus | .resetTraffic | .resetFull
  | .resetFullTakesEffect | .configureLine | .startLine | .stopLine | .readLine | .clearFault | .addTag | .changeTag
  | .removeTag | .readTag | .listTags | .clearTags | .setQueue | .readQueue | .setTime | .armTime | .cancelArm
  | .readTime | .setPulseNotice | .addSlot | .changeSlot | .setValue | .removeSlot | .readSlot | .send
  | .startReports | .stopReports | .resync | .subscribe | .unsubscribe | .flush | .holdRunOut _ | .reportFormation
  | .linkFrameStart | .linkFrameComplete | .retransmitTimeout => true

end Sys2Proof
end

