-- ==== Sys2Proof/Tests/Slice0.lean ====
section
/-! SUPPORT. Tests and witnesses. A `test_` theorem is one step or one operation with a result taken from the spec. A
`witness_` theorem shows, for the obligation it names, a state and operands that meet its hypotheses, clause by clause
and at the edges of their ranges. -/

namespace Sys2Proof.Tests

-- One theorem after another: elaborating them all at once costs a thread and its stack for each.
set_option Elab.async false

open Sys2Proof Sys2Proof.Machine

/-! ### Helpers -/

/-- The state a command answers; the reset state where it answers none. -/
def after (c : Instr) (s : State) : State :=
  match exec c s with
  | .next t => t
  | _ => State.reset

/-- The state with one request waiting, of SEQ 7. -/
def given (s : State) (payload : List Byte) : State :=
  { s with link := { s.link with requests := [⟨7, payload⟩] } }

/-- The payload of the newest reply. -/
def reply (s : State) : Option (List Byte) := s.link.replies.getLast?.map Reply.payload

/-- The reset state at a run clock. -/
def clock (now : Nat) : State := { State.reset with time := { State.reset.time with runClock := now } }

theorem given_offers {s : State} (held : s.held = false) (free : s.link.executing = none)
    (room : s.link.replies.length < 8) (payload : List Byte) : (given s payload).Offers ⟨7, payload⟩ [] :=
  ⟨held, free, rfl, room⟩

theorem given_offersTag {s : State} (held : s.held = false) (free : s.link.executing = none)
    (room : s.link.replies.length < 8) (idle : s.busy = none) (payload : List Byte)
    (current : (given s payload).expiryWaits = false) : (given s payload).OffersTag ⟨7, payload⟩ [] :=
  { given_offers held free room payload with idle, current }

/-- Offers at a state with nothing else to do. -/
theorem reset_offers (payload : List Byte) : (given State.reset payload).Offers ⟨7, payload⟩ [] :=
  given_offers rfl rfl (by decide +kernel) payload

/-- A line of a role and rate, running from `t0` with everything it uses at rest. -/
def runningPort (role : Role) (t0 : Nat) : Port :=
  { state := .running, config := { role }, t0 := some t0
    receiver := if role = .transmit then .dormant else .idle false
    transmitter := if role = .receive then .dormant else .free
    comparator := if role = .echo then .clear else .inactive }

/-- The reset state with line 3 running in a role, at a run clock. -/
def lineRuns (role : Role) (now : Nat) : State := (clock now).withPort 3 (runningPort role 0)

/-- A good word: tag 1, value 1, check Eh (Table 1-2). -/
def goodWord : LineBits := lineWord 1 1

/-- An intake item of line 3. -/
def item (kind : ItemKind) (marks : List Stamp) : Item :=
  { kind, line := 3, bits := goodWord, stamp := ⟨90, 0⟩, offeredAt := 90, marks }

/-- Entry settings that route to the line queue. -/
def entrySettings : EntrySettings :=
  { routeLine := true, routeMerged := false, keepLatest := true, onChange := false, notify := .none
    deadline := some 1, minInterval := some 1, earlyAction := .keep, notifyEarly := true }

/-- The exact entry of line 3 and tag 1. -/
def entry (lastAccepted : Option Nat) (freshness : Freshness) : Entry :=
  { key := ⟨.port 3, 1⟩, settings := entrySettings, lastAccepted, freshness }

/-- Slot settings of period 5 (500 µs). -/
def slotSettings : SlotSettings :=
  { tag := 1, value := 1, period := 5, phase := 4, mode := .always, limit := some 1, enabled := true
    notifyMiss := true, notifyDone := true }

/-- The slot of index 383 on line 3. -/
def slot (pending nextDue : Option Nat) : Slot :=
  { index := 383, line := 3, settings := slotSettings, pending, nextDue, remaining := some 1 }

/-- A record. -/
def record : CaptureRecord := { body := .mark .lineStart, line := 3, bits := 0, stamp := ⟨0, 0⟩ }

/-- A notice. -/
def notice : Notice := { body := .armExpired 1, line := none, tag := 0, stamp := ⟨0, 0⟩ }

/-! ### Well formed commands and codes -/

theorem test_wellFormed_refuses_equal_halves :
    Instr.wellFormed (.bitDecoded 3 .positive .positive) = false ∧
      Instr.wellFormed (.bitDecoded 3 .negative .negative) = false := by decide +kernel

theorem test_wellFormed_takes_opposite_halves :
    Instr.wellFormed (.bitDecoded 3 .positive .negative) = true := by decide +kernel

/-- No row of spec/opcode_table.json gives bits. -/
theorem test_no_word_spells_a_command : decodeTableWord 16 0 = none ∧ decodeTableWord 8 255 = none := by decide +kernel

/-- Table 1-2. -/
theorem test_checks_of_table_1_2 :
    checkOf 0 0 = 0x0 ∧ checkOf 1 0 = 0xD ∧ checkOf 0 1 = 0x3 ∧ checkOf 1 1 = 0xE := by decide +kernel

/-- Section 9.2, the CRC of 31h to 39h. -/
theorem test_crc_of_section_9_2 :
    frameCrc [0x31, 0x32, 0x33, 0x34, 0x35, 0x36, 0x37, 0x38, 0x39] = 0x29B1 := by decide +kernel

/-- Table 1-1 and Table 1-2: the word of tag 001h and value 000001h, bit 1 first. -/
theorem test_word_layout : lineWord 1 1 = 0b000000000001_000000000000000000000001_1110#40 := by decide +kernel

/-- R3: a 1 is positive then negative, a 0 negative then positive. -/
theorem test_half_bits :
    (wordHalfBits (lineWord 1 1))[11]? = some (.positive, .negative) ∧
      (wordHalfBits (lineWord 1 1))[0]? = some (.negative, .positive) := by decide +kernel

/-- Section 11.5, record 1, with the check the section prints; R2 gives 4h for that word (notes/assumptions/28.md). -/
theorem test_record_of_section_11_5 :
    recordBytes
      { body := .word { first := true, changed := true }, line := 3
        bits := (0x0A2#12 ++ 0x12#24 ++ 0x7#4 : BitVec (12 + 24 + 4)), stamp := ⟨2705470, 0⟩ } =
      [0x01, 0x06, 0x03, 0x00, 0x00, 0xA2, 0x00, 0x00, 0x12, 0x07, 0x00, 0, 0, 0, 0, 0, 0x29, 0x48, 0x3E] := by decide +kernel

/-- Section 11.5: the head of the ACK frame. -/
theorem test_ack_frame_head : (frameBytes kindAck 9 []).take 4 = [0xA7, 0x00, 0x04, 0x09] := by decide +kernel

/-- The example before R96: period 20, phase 5, T0 1,000,000. -/
theorem test_grid_points :
    let t := { slotSettings with period := 20, phase := 5 }
    gridPoint 1000000 t 1000000 = 1000500 ∧ gridPoint 1000000 t 1000501 = 1002500 ∧
      gridPoint 1000000 t 1002500 = 1002500 := by decide +kernel

/-! ### Steps, reset and power -/

theorem witness_EmptyQueueStep :
    ((given State.reset [0x01]).pending = [] ∧ (given State.reset [0x01]).nextHappening = some .identify) ∧
    (State.reset.pending = [] ∧ State.reset.nextHappening = none ∧ State.reset.held = false) ∧
    ({ State.reset with held := true }.pending = [] ∧ { State.reset with held := true }.held = true) := by decide +kernel

theorem witness_EveryCommandAnswers :
    { State.reset with held := true }.held = true ∧ Instr.identify ≠ .rstnLow ∧
      (∀ lrate, Instr.identify ≠ .powerOn lrate) := by decide +kernel

theorem test_power_on_rate : (after (.powerOn 2) State.reset).link.rate = .b921600 := by decide +kernel

theorem test_rstn_low_holds_the_run_clock : (after .rstnLow (clock 9)).time.runClock = 0 := by decide +kernel

theorem witness_ResetTraffic :
    (given State.reset [0x03, 0x01]).Offers ⟨7, [0x03, 0x01]⟩ [] ∧
      (given State.reset [0x03, 0x02]).Offers ⟨7, [0x03, 0x02]⟩ [] ∧ (2 : Byte) ≠ 0 ∧ (2 : Byte) ≠ 1 :=
  ⟨reset_offers _, reset_offers _, by decide +kernel, by decide +kernel⟩

theorem test_reset_traffic_stops_a_line :
    ((after .resetTraffic (given (lineRuns .echo 5) [0x03, 0x01])).port 3).state = .ready := by decide +kernel

/-- The frame of a RESET(FULL) reply, one byte for short, on the wire since 0. -/
def resetFrame : State :=
  { clock 87 with link := { State.reset.link with
      executing := some ⟨⟨7, [0x03, 0x00]⟩, .resetReply⟩, transmitter := some ⟨[0xA7], 0, true⟩ } }

theorem witness_ResetFull :
    (given State.reset [0x03, 0x00]).Offers ⟨7, [0x03, 0x00]⟩ [] ∧
    (resetFrame.held = false ∧ resetFrame.link.executing = some ⟨⟨7, [0x03, 0x00]⟩, .resetReply⟩ ∧
      resetFrame.link.transmitter = some ⟨[0xA7], 0, true⟩ ∧ resetFrame.frameSent ⟨[0xA7], 0, true⟩ = true) ∧
    (after .linkFrameComplete resetFrame).link.executing = some ⟨⟨7, [0x03, 0x00]⟩, .resetDue⟩ ∧
    State.reset.held = false ∧ State.reset.link.executing = none :=
  ⟨reset_offers _, by decide +kernel, by decide +kernel, by decide +kernel, by decide +kernel⟩

theorem test_reset_full_takes_effect :
    (after .resetFullTakesEffect (after .linkFrameComplete resetFrame)).resetCause = .request := by decide +kernel

/-! ### The time base -/

/-- The time base with a last taken edge at 100. -/
def edgeAt100 (now : Nat) (arm : Option Arm) : State :=
  { clock now with time := { (clock now).time with lastEdge := some 100, arm, pulseNotices := true } }

theorem witness_PulseEdgeInFree :
    ((edgeAt100 500099 none).held = false ∧ (edgeAt100 500099 none).time.lastEdge = some 100 ∧
      (edgeAt100 500099 none).time.runClock < 100 + 500000) ∧
    ((∀ last, (edgeAt100 500100 none).time.lastEdge = some last →
        last + 500000 ≤ (edgeAt100 500100 none).time.runClock) ∧
      (edgeAt100 500100 none).time.arm = none) :=
  ⟨by decide +kernel, by intro last h; cases h; decide +kernel, rfl⟩

theorem test_early_edge_is_ignored : (after .pulseEdge (edgeAt100 500099 none)).time.ignoredEdges = 1 := by decide +kernel

/-- The time base armed, with a number of notices held, line queue 0 of depth 0 and line queue 1 one record short of
full. -/
def armedWith (held : Nat) : State :=
  let s := edgeAt100 500100 (some ⟨77, 490000, 510000⟩)
  { (s.withQueue 0 { s.queue 0 with depth := 0 }).withQueue 1 { s.queue 1 with depth := 1 } with
    reports := { State.reset.reports with notices := List.replicate held notice } }

/-- The same with 62 notices held. -/
def armed : State := armedWith 62

theorem witness_PulseEdgeAligns :
    ∀ held ∈ [61, 64], (armedWith held).held = false ∧ (armedWith held).time.arm = some ⟨77, 490000, 510000⟩ ∧
      (∀ last, (armedWith held).time.lastEdge = some last → last + 500000 ≤ (armedWith held).time.runClock) ∧
      ((0 : QueueNo) ≠ mergedQueue ∧ ((armedWith held).queue 0).depth = 0) ∧
      ((armedWith held).fullNotice ⟨77, 1⟩ 1).length = 1 ∧ (armedWith held).reports.notices.length ≤ 64 ∧
      (armedWith held).reports.noticeLoss ≤ 65535 := by
  intro held h
  refine ⟨rfl, rfl, fun last same => ?_, ⟨by decide, rfl⟩, ?_, ?_, ?_⟩
  · cases (show (some 100 : Option Nat) = some last from same)
    exact Nat.le_refl 500100
  all_goals revert held; decide +kernel

/-- R73, R155: of the notices of an aligning edge the QUEUE_FULL of line queue 1 comes first, and a notice beyond 64 is
lost. -/
theorem test_aligning_edge_fills_a_queue :
    ((after .pulseEdge (armedWith 62)).reports.notices.drop 62).map Notice.body =
        [.queueFull 1, .timeAligned 10] ∧
      (after .pulseEdge (armedWith 62)).reports.noticeLoss = 1 ∧
      ((after .pulseEdge (armedWith 62)).queue 0).offered = 0 := by decide +kernel

theorem test_edge_loads_the_arm_value :
    (after .pulseEdge armed).time.lineTime = 77 ∧ (after .pulseEdge armed).time.epoch = 1 := by decide +kernel

theorem witness_ArmWindowAndSwitch :
    (∀ window ∈ [0, 1, 10000, 10001], window < 2 ^ 16 ∧
      (given State.reset (0x41 :: (bigEndian 8 9223372036854775807 ++ bigEndian 2 window))).Offers
        ⟨7, 0x41 :: (bigEndian 8 9223372036854775807 ++ bigEndian 2 window)⟩ []) ∧
    ((edgeAt100 510000 (some ⟨77, 490000, 510000⟩)).held = false ∧
      (edgeAt100 510000 (some ⟨77, 490000, 510000⟩)).time.arm = some ⟨77, 490000, 510000⟩) ∧
    State.reset.time.arm = none ∧
    (∀ switch ∈ [(0 : Byte), 1, 2], (given State.reset [0x44, switch]).Offers ⟨7, [0x44, switch]⟩ []) :=
  ⟨fun window h => ⟨by revert window; decide +kernel, reset_offers _⟩, by decide +kernel, rfl, fun _ _ => reset_offers _⟩

theorem test_arm_window_of_10000_ms :
    (after .armTime (given State.reset (0x41 :: (bigEndian 8 5 ++ bigEndian 2 10000)))).time.arm =
      some ⟨5, 0, 10000000⟩ := by decide +kernel

theorem test_expiry_is_not_early :
    (after .armWindowExpiry (edgeAt100 509999 (some ⟨77, 490000, 510000⟩))).time.arm =
      some ⟨77, 490000, 510000⟩ := by decide +kernel

theorem test_pulse_notice_switch : (after .setPulseNotice (given State.reset [0x44, 1])).time.pulseNotices = true := by decide +kernel

theorem witness_SetTime :
    ∀ held ∈ [0, 64], ∀ value ∈ [9223372036854775807, 9223372036854775808], value < 2 ^ 64 ∧
      (given (armedWith held) (0x40 :: bigEndian 8 value)).Offers ⟨7, 0x40 :: bigEndian 8 value⟩ [] ∧
      (((armedWith held).queue 0).depth = 0 ∧ (0 : QueueNo) ≠ mergedQueue) ∧
      ((armedWith held).fullNotice ⟨value, 1⟩ 1).length = 1 ∧ (armedWith held).reports.notices.length ≤ 64 := by
  intro held h value h'
  refine ⟨?_, given_offers (s := armedWith held) rfl rfl (Nat.zero_lt_succ 7) _, ⟨rfl, by decide⟩, ?_, ?_⟩
  · revert value; decide
  · revert value; revert held; decide +kernel
  · revert held; decide +kernel

theorem test_set_time_marks_every_queue :
    ∀ n, ((after .setTime (given State.reset (0x40 :: bigEndian 8 50))).queue n).records =
      [{ body := .mark .timeSet, line := n, bits := 0, stamp := ⟨50, 1⟩ }] := by decide +kernel

theorem witness_CancelArm :
    (given armed [0x42]).Offers ⟨7, [0x42]⟩ [] ∧ (given armed [0x42]).time.arm.isSome = true ∧
      exec .cancelArm (given armed [0x42]) = .next (after .cancelArm (given armed [0x42])) ∧
      exec .pulseEdge (after .cancelArm (given armed [0x42])) =
        .next (after .pulseEdge (after .cancelArm (given armed [0x42]))) :=
  ⟨given_offers rfl rfl (by decide +kernel) _, rfl, rfl, rfl⟩

theorem test_cancelled_arm_loads_nothing :
    (after .pulseEdge (after .cancelArm (given armed [0x42]))).time.lineTime = 0 := by decide +kernel

theorem witness_ReadTime :
    (given State.reset [0x43]).Offers ⟨7, [0x43]⟩ [] ∧ State.reset.time.arm = none ∧
    (∀ now ∈ [500000, 509999, 510000], ∃ s : State, s.Offers ⟨7, [0x43]⟩ [] ∧
      s.time.arm = some ⟨77, 490000, 510000⟩ ∧ s.time.runClock = now) :=
  ⟨reset_offers _, rfl, fun now _ => ⟨given (edgeAt100 now (some ⟨77, 490000, 510000⟩)) [0x43],
    given_offers (s := edgeAt100 now _) rfl rfl (Nat.zero_lt_succ 7) _, rfl, rfl⟩⟩

theorem test_read_time_length : (reply (after .readTime (given armed [0x43]))).map List.length = some 48 := by decide +kernel

/-! ### The receiver and the arrival intake -/

/-- Line 3 running as a receiver in a receiver state. -/
def receives (role : Role) (r : Receiver) : State :=
  (clock 90).withPort 3 { runningPort role 0 with receiver := r }

theorem witness_ReceiverStates :
    (receives .receive (.idle false)).held = false ∧
    (receives .receive (.inWord 39 0)).held = false ∧
    ((receives .receive (.inWord 39 0)).port 3).receiver = .inWord 39 0 ∧
    (∀ count bits, ((receives .receive (.idle false)).port 3).receiver ≠ .inWord count bits) ∧
    ((receives .receive (.idle true)).port 3).receiver = .idle true ∧
    (0 : LineBits).getMsbD 39 = false ∧ (0 : LineBits).getMsbD 40 = false := by
  refine ⟨rfl, rfl, rfl, fun count bits h => ?_, rfl, by decide, by decide⟩
  cases (show Receiver.idle false = .inWord count bits from h)

theorem test_last_bit_lands_in_position_40 :
    placeBit 39 true 0 = 1 ∧ placeBit 40 true 0 = 0 ∧ placeBit 0 true 0 = 0x8000000000#40 := by decide

theorem test_equal_halves_discard :
    ((after (.bitDecoded 3 .positive .positive) (receives .receive (.inWord 5 0))).port 3).receiver =
      .discarding 5 0 := by decide +kernel

/-- An item of a line, offered at 90. -/
def itemOf (line : LineNo) : Item := { item .word [] with line }

/-- An intake of items of line 2 and then of line 5, offered in this microsecond, and a receiver of line 3. -/
def intakeOf (lower higher : Nat) (r : Receiver) : State :=
  { receives .receive r with intake := List.replicate lower (itemOf 2) ++ List.replicate higher (itemOf 5) }

theorem witness_WordReceived :
    ∀ higher ∈ [0, 1],
      let s := intakeOf (15 - higher) higher (.idle false)
      s.held = false ∧ (s.port 3).receiver = .idle false ∧ (s.port 3).config.role = .receive ∧
      lineCheck goodWord = checkOf (lineTag goodWord) (lineValue goodWord) ∧
      s.intake = List.replicate (15 - higher) (itemOf 2) ++ List.replicate higher (itemOf 5) ∧ s.intake.length < 16 ∧
      (∀ other ∈ List.replicate (15 - higher) (itemOf 2), other.offeredAt = s.time.runClock →
        other.line ≤ 3 ∨ other.stamp.epoch ≠ s.time.epoch) ∧
      (∀ other ∈ List.replicate higher (itemOf 5), other.offeredAt = s.time.runClock ∧ (3 : LineNo) < other.line ∧
        other.stamp.epoch = s.time.epoch) := by decide +kernel

theorem witness_DamagedAndRefusedWords :
    ((receives .receive (.inWord 41 0)).held = false ∧
      ((receives .receive (.inWord 41 0)).port 3).config.role = .receive ∧
      ((receives .receive (.inWord 41 0)).port 3).receiver = .inWord 41 0) ∧
    (((receives .receive (.inWord 40 1)).port 3).receiver = .inWord 40 1 ∧
      lineCheck 1 ≠ checkOf (lineTag 1) (lineValue 1)) ∧
    ((receives .receive (.discarding 64 0)).port 3).receiver = .discarding 64 0 ∧
    (let s := intakeOf 14 1 (.idle false)
     let after := fun other : Item => other.offeredAt = (itemOf 3).offeredAt ∧
       ((s.time.epoch - other.stamp.epoch).toNat < (s.time.epoch - (itemOf 3).stamp.epoch).toNat ∨
         other.stamp.epoch = (itemOf 3).stamp.epoch ∧ (itemOf 3).line < other.line)
     s.intake = List.replicate 14 (itemOf 2) ++ [itemOf 5] ∧ s.intake.length < 16 ∧
      (∀ other ∈ List.replicate 14 (itemOf 2), ¬ after other) ∧ ∀ other ∈ [itemOf 5], after other) ∧
    (∀ kind ∈ [ItemKind.errorWord .check 40, .echo], ∀ higher ∈ [0, 1],
      let s := intakeOf (16 - higher) higher (.idle false)
      let offered : Item := { itemOf 3 with kind }
      let after := fun other : Item => other.offeredAt = offered.offeredAt ∧
        ((s.time.epoch - other.stamp.epoch).toNat < (s.time.epoch - offered.stamp.epoch).toNat ∨
          other.stamp.epoch = offered.stamp.epoch ∧ offered.line < other.line)
      s.intake = List.replicate (16 - higher) (itemOf 2) ++ List.replicate higher (itemOf 5) ∧ s.intake.length = 16 ∧
      (∀ other ∈ List.replicate (16 - higher) (itemOf 2), ¬ after other) ∧
      (∀ other ∈ List.replicate higher (itemOf 5), after other) ∧
      List.replicate (16 - higher) (itemOf 2) ++ offered :: List.replicate higher (itemOf 5) =
        (List.replicate (16 - higher) (itemOf 2) ++ List.replicate higher offered) ++
          [if higher = 0 then offered else itemOf 5]) ∧
    (∀ higher ∈ [0, 1],
      let s := intakeOf (16 - higher) higher (.inWord 40 goodWord)
      s.held = false ∧ (s.port 3).receiver = .inWord 40 goodWord ∧ (s.port 3).config.role = .receive ∧
      s.intake = List.replicate (16 - higher) (itemOf 2) ++ List.replicate higher (itemOf 5) ∧ s.intake.length = 16 ∧
      (∀ other ∈ List.replicate (16 - higher) (itemOf 2), other.offeredAt = s.time.runClock →
        other.line ≤ 3 ∨ other.stamp.epoch ≠ s.time.epoch) ∧
      (∀ other ∈ List.replicate higher (itemOf 5), other.offeredAt = s.time.runClock ∧ (3 : LineNo) < other.line ∧
        other.stamp.epoch = s.time.epoch)) ∧
    List.replicate 0 (itemOf 5) = [] ∧ List.replicate 1 (itemOf 5) = [] ++ [itemOf 5] := by decide +kernel

theorem test_word_of_41_bits_is_a_length_error :
    ((after (.endOfWord 3) (receives .receive (.inWord 41 0))).port 3).counters.lengthErrors = 1 := by decide +kernel

theorem test_overrun_is_counted_at_the_refused_line :
    ((after (.endOfWord 3) (intakeOf 16 0 (.inWord 40 goodWord))).port 3).counters.intakeOverruns = 1 ∧
      ((after (.endOfWord 3) (intakeOf 15 1 (.inWord 40 goodWord))).port 5).counters.intakeOverruns = 1 := by
  decide +kernel

/-- R84, R16: an item stamped after a load enters after every item stamped before it, also one of a higher port offered
in the same microsecond; within one epoch the lower port is first. -/
theorem test_items_enter_by_load_and_port :
    (after (.endOfWord 3) { intakeOf 0 1 (.inWord 40 goodWord) with
      time := { (clock 90).time with lineTime := 7, epoch := 1 } }).intake.map Item.line = [5, 3] ∧
    (after (.endOfWord 3) (intakeOf 0 1 (.inWord 40 goodWord))).intake.map Item.line = [3, 5] := by decide +kernel

/-! ### The echo comparator -/

/-- Line 3 as an ECHO line in RUNNING, or STOPPING with 2 words discarded, with what it holds. -/
def echoes (state : LineState) (r : Receiver) (t : Transmitter) (c : Comparator) (consecutive : Nat) : State :=
  (clock 90).withPort 3 { runningPort .echo 0 with
    state, receiver := r, transmitter := t, comparator := c, consecutive
    stop := if state = .stopping then some ⟨.drain, 2⟩ else none }

/-- A read-back outcome that equals the good word. -/
def goodOutcome : ReceiverOutcome := { kind := .word, bits := goodWord, stamp := ⟨80, 0⟩ }

theorem test_good_word_ends_as_a_word : (Receiver.inWord 40 goodWord).EndsAs .word goodWord :=
  .inl ⟨rfl, by decide +kernel, rfl⟩

/-- R8: CHECK, LENGTH and CODE. -/
theorem test_damaged_words_end_as_errors :
    (Receiver.inWord 40 1).EndsAs (.error .check 40) 1 ∧ (Receiver.inWord 41 1).EndsAs (.error .length 41) 1 ∧
      (Receiver.discarding 64 1).EndsAs (.error .code 63) 1 :=
  ⟨.inr (.inl ⟨rfl, by decide +kernel, rfl⟩), .inr (.inr (.inl ⟨41, rfl, by decide, rfl⟩)),
    .inr (.inr (.inr ⟨64, rfl, rfl⟩))⟩

/-- A read-back of a receiver's word, judged as it ends, at a consecutive count. -/
theorem judges_readBack {r : Receiver} {kind : OutcomeKind} {bits : LineBits} {judgement : Judgement}
    (ended : r.EndsAs kind bits) (judged : JudgedAs goodWord kind bits judgement) (state : LineState)
    (consecutive : Nat) :
    ∃ p, (echoes state r .free (.waiting goodWord (some 99)) consecutive).Judges 3 (.endOfWord 3) goodWord judgement
      ⟨0, 0⟩ p :=
  ⟨_, .readBack goodWord bits (some 99) kind judgement rfl ended rfl
    (fun _ _ h => Transmitter.noConfusion (show Transmitter.free = .sending _ _ from h)) judged⟩

/-- A read-back that was held, judged as SENDING ends. -/
theorem judges_held {outcome : ReceiverOutcome} {judgement : Judgement}
    (judged : JudgedAs goodWord outcome.kind outcome.bits judgement) (state : LineState) (consecutive : Nat) :
    ∃ p, (echoes state (.idle false) (.sending goodWord 90) (.held goodWord outcome) consecutive).Judges 3
      (.endOfSending 3) goodWord judgement outcome.stamp p :=
  ⟨_, .held goodWord goodWord outcome 90 judgement rfl (Nat.le_refl 90) rfl judged⟩

/-- A word whose missing time is reached in this microsecond. -/
theorem judges_missing (state : LineState) (consecutive : Nat) :
    ∃ p, (echoes state (.idle false) .free (.waiting goodWord (some 90)) consecutive).Judges 3
      (.missingTimeReached 3) goodWord .missing ⟨0, 0⟩ p :=
  ⟨_, .missing goodWord 90 rfl (Nat.le_refl 90)⟩

/-- A read-back outcome with a bit error, and one cut short. -/
def otherOutcome : ReceiverOutcome := { kind := .word, bits := 0, stamp := ⟨80, 0⟩ }
def shortOutcome : ReceiverOutcome := { kind := .error .length 39, bits := goodWord, stamp := ⟨80, 0⟩ }

theorem witness_EchoOutcome :
    (∀ c ∈ [Comparator.clear, .held goodWord goodOutcome, .waiting goodWord none],
      let s := echoes .running (.discarding 64 1) (.sending goodWord 95) c 0
      s.held = false ∧ (s.port 3).config.role = .echo ∧ (s.port 3).receiver = .discarding 64 1 ∧
        (s.port 3).comparator = c ∧ (s.port 3).transmitter = .sending goodWord 95) ∧
    (Receiver.discarding 64 1).EndsAs (.error .code 63) 1 ∧ (Receiver.inWord 40 goodWord).EndsAs .word goodWord ∧
    (∃ p, (echoes .running (.inWord 40 goodWord) .free (.waiting goodWord (some 99)) 2).Judges 3 (.endOfWord 3)
      goodWord .matched ⟨0, 0⟩ p) ∧
    (∃ p, (echoes .stopping (.idle false) (.sending goodWord 90) (.held goodWord goodOutcome) 2).Judges 3
      (.endOfSending 3) goodWord .matched ⟨80, 0⟩ p) :=
  ⟨by decide +kernel, test_damaged_words_end_as_errors.2.2, test_good_word_ends_as_a_word,
    judges_readBack test_good_word_ends_as_a_word (.inl ⟨rfl, rfl, rfl⟩) _ _, judges_held (.inl ⟨rfl, rfl, rfl⟩) _ _⟩

theorem test_match_clears_the_consecutive_count :
    ((after (.endOfWord 3) (echoes .running (.inWord 40 goodWord) .free (.waiting goodWord (some 99)) 2)).port
      3).consecutive = 0 := by decide +kernel

theorem witness_EchoMismatch :
    (∃ p, (echoes .running (.idle false) .free (.waiting goodWord (some 90)) 1).Judges 3 (.missingTimeReached 3)
      goodWord .missing ⟨0, 0⟩ p) ∧
    (∃ p, (echoes .running (.inWord 40 0) .free (.waiting goodWord (some 99)) 1).Judges 3 (.endOfWord 3) goodWord
      .different ⟨0, 0⟩ p) ∧
    (∃ p, (echoes .running (.inWord 41 1) .free (.waiting goodWord (some 99)) 1).Judges 3 (.endOfWord 3) goodWord
      (.error .length) ⟨0, 0⟩ p) ∧
    (∃ p, (echoes .running (.idle false) (.sending goodWord 90) (.held goodWord otherOutcome) 1).Judges 3
      (.endOfSending 3) goodWord .different ⟨80, 0⟩ p) ∧
    (∃ p, (echoes .running (.idle false) (.sending goodWord 90) (.held goodWord shortOutcome) 1).Judges 3
      (.endOfSending 3) goodWord (.error .length) ⟨80, 0⟩ p) ∧
    ((echoes .running (.idle false) .free .clear 1).held = false ∧
      ((echoes .running (.idle false) .free .clear 1).port 3).consecutive + 1 <
        ((echoes .running (.idle false) .free .clear 1).port 3).config.echoThreshold) ∧
    (∀ c ∈ [Comparator.clear, .waiting goodWord none, .waiting goodWord (some 91)],
      ∀ word moment, ((echoes .running (.idle false) .free c 1).port 3).comparator = .waiting word (some moment) →
        (echoes .running (.idle false) .free c 1).time.runClock < moment) := by
  refine ⟨judges_missing _ _, judges_readBack (.inl ⟨rfl, by decide +kernel, rfl⟩) (.inr (.inl ⟨rfl, ?_, rfl⟩)) _ _,
    judges_readBack test_damaged_words_end_as_errors.2.1 (.inr (.inr ⟨_, _, rfl, rfl⟩)) _ _,
    judges_held (.inr (.inl ⟨rfl, ?_, rfl⟩)) _ _, judges_held (.inr (.inr ⟨_, _, rfl, rfl⟩)) _ _, by decide +kernel,
    fun c h word moment same => ?_⟩
  · decide +kernel
  · decide +kernel
  · have same' : c = .waiting word (some moment) := same
    subst same'
    simp only [List.mem_cons, Comparator.waiting.injEq, Option.some.injEq, reduceCtorEq, and_false, false_or,
      List.not_mem_nil, or_false] at h
    rw [h.2]
    exact Nat.lt_succ_self 90

/-- Line 3 about to reach its threshold of 3, while STOP_LINE waits for it. -/
def faulting (state : LineState) (t : Transmitter) (c : Comparator) : State :=
  let s := echoes state (.inWord 40 0) t c 2
  { s with
    plan := [slot (some 80) (some 580)]
    link := { s.link with executing := if state = .stopping then some ⟨⟨7, [0x12, 3, 0]⟩, .stop 3⟩ else none }
    reports := { s.reports with notices := List.replicate 63 notice } }

theorem witness_EchoFault :
    (∀ state ∈ [LineState.running, .stopping], ∀ c ∈ [Comparator.waiting goodWord (some 90), .held goodWord otherOutcome],
      (faulting state (.sending goodWord 90) c).held = false ∧
      ((faulting state (.sending goodWord 90) c).port 3).config.echoThreshold ≤
        ((faulting state (.sending goodWord 90) c).port 3).consecutive + 1 ∧
      ((faulting state (.sending goodWord 90) c).port 3).state = state ∧
      (faulting state (.sending goodWord 90) c).reports.notices.length ≤ 64 ∧
      (faulting state (.sending goodWord 90) c).reports.noticeLoss ≤ 65535) ∧
    (∀ state, ∃ p, (faulting state .free (.waiting goodWord (some 90))).Judges 3 (.missingTimeReached 3) goodWord
      .missing ⟨0, 0⟩ p) ∧
    (∀ state, ∃ p, (faulting state .free (.waiting goodWord (some 90))).Judges 3 (.endOfWord 3) goodWord .different
      ⟨0, 0⟩ p) ∧
    (∀ state, ∃ p, (faulting state (.sending goodWord 90) (.held goodWord shortOutcome)).Judges 3 (.endOfSending 3)
      goodWord (.error .length) ⟨80, 0⟩ p) ∧
    (∀ t c r, (faulting .running t c).link.executing ≠ some ⟨r, .stop 3⟩) ∧
    (∀ t c, (faulting .stopping t c).link.executing = some ⟨⟨7, [0x12, 3, 0]⟩, .stop 3⟩ ∧
      ((faulting .stopping t c).port 3).stop = some ⟨.drain, 2⟩) := by
  refine ⟨by decide +kernel, fun _ => ⟨_, .missing goodWord 90 rfl (Nat.le_refl 90)⟩,
    fun _ => ⟨_, .readBack goodWord 0 (some 90) .word .different rfl (.inl ⟨rfl, by decide +kernel, rfl⟩) rfl
      (fun _ _ h => Transmitter.noConfusion (show Transmitter.free = .sending _ _ from h))
      (.inr (.inl ⟨rfl, by decide +kernel, rfl⟩))⟩,
    fun _ => ⟨_, .held goodWord goodWord shortOutcome 90 (.error .length) rfl (Nat.le_refl 90) rfl
      (.inr (.inr ⟨_, _, rfl, rfl⟩))⟩, fun _ _ r h => ?_, fun _ _ => ⟨rfl, rfl⟩⟩
  cases (show (none : Option Executing) = some ⟨r, .stop 3⟩ from h)

theorem test_third_mismatch_faults_the_line :
    let t := after (.missingTimeReached 3) (faulting .stopping .free (.waiting goodWord (some 90)))
    (t.port 3).state = .fault ∧ reply t = some [0x12, 0, 4, 2] ∧ t.reports.noticeLoss = 1 := by decide +kernel

/-! ### The transmitter and stops -/

/-- Line 3 as a TRANSMIT line with a plan and a send queue. -/
def sends (policy : TransmitPolicy) (plan : List Slot) (queue : List OneOff) (t : Transmitter) : State :=
  { (clock 90).withPort 3 { runningPort .transmit 0 with
      config := { role := .transmit, policy }, sendQueue := queue, transmitter := t } with plan }

theorem witness_TransmitSelection :
    (let s := sends .planFirst [slot (some 50) (some 550), { slot (some 50) none with index := 382, line := 4 }]
        [⟨2, 2⟩] .free
     s.held = false ∧ (s.port 3).transmitter = .free ∧ (s.port 3).state = .running ∧
      slot (some 50) (some 550) ∈ s.plan ∧ (slot (some 50) (some 550)).pending = some 50 ∧
      (slot (some 50) (some 550)).remaining ≠ some 0 ∧ (s.port 3).config.policy = .planFirst ∧
      ∀ other ∈ s.plan, other.line = 3 → ∀ d, other.pending = some d →
        other = slot (some 50) (some 550) ∨ 50 < d ∨ 50 = d ∧ 383 < other.index.val) ∧
    (let s := sends .queueFirst [slot (some 50) (some 550)] [⟨2, 2⟩] .free
     (s.port 3).sendQueue = [⟨2, 2⟩] ∧ (s.port 3).config.policy = .queueFirst) ∧
    (let s := sends .planFirst [slot none (some 550)] [] .free
     (s.port 3).sendQueue = [] ∧ ∀ slot ∈ s.plan, slot.line = 3 → slot.pending = none) := by
  refine ⟨⟨rfl, rfl, rfl, .head _, rfl, by decide, rfl, fun other h line d _ => ?_⟩, by decide +kernel,
    by decide +kernel⟩
  rcases List.mem_pair.1 (show other ∈ [_, _] from h) with rfl | rfl
  · exact .inl rfl
  · exact absurd line (by decide)

theorem test_slot_at_its_limit_disables_itself :
    (after (.transmitSelection 3) (sends .planFirst [slot (some 50) (some 550)] [] .free)).plan.map
      (fun s => (s.settings.enabled, s.remaining, s.sent)) = [(false, some 0, 1)] := by decide +kernel

/-- Table 1-3: 40 bit times at 50 kbit/s are 800 µs. -/
theorem test_word_takes_800_us :
    ((after (.transmitSelection 3) (sends .planFirst [] [⟨1, 1⟩] .free)).port 3).transmitter =
      .sending goodWord 890 := by decide +kernel

/-- Line 3 as a TRANSMIT line at 200 kbit/s with a word on the wire from 1,000 to 1,200, at a run clock. -/
def drives (now : Nat) : State :=
  (clock now).withPort 3 { runningPort .transmit 0 with
    config := { role := .transmit, rate := .k200 }, transmitter := .sending goodWord 1200 }

theorem witness_SendingAndSpacing :
    (∀ ends ∈ [90, 91], (sends .planFirst [] [] (.sending goodWord ends)).held = false ∧
      ((sends .planFirst [] [] (.sending goodWord ends)).port 3).transmitter = .sending goodWord ends) ∧
    (∀ sent o, ((sends .planFirst [] [] (.sending goodWord 90)).port 3).comparator ≠ .held sent o) ∧
    (∀ keepEcho : Bool,
      let s := echoes .running (.idle false) (.sending goodWord 90) (.held goodWord goodOutcome) 2
      let t := s.withPort 3 { s.port 3 with config := { (s.port 3).config with keepEcho } }
      t.held = false ∧ (t.port 3).transmitter = .sending goodWord 90 ∧
        (t.port 3).comparator = .held goodWord goodOutcome ∧ goodOutcome.kind = .word ∧ goodOutcome.bits = goodWord ∧
        (t.port 3).config.keepEcho = keepEcho) ∧
    ((sends .planFirst [] [] (.spacing goodWord 90)).port 3).transmitter = .spacing goodWord 90 ∧
    (∀ at_ ∈ [(1000, 0), (1004, 0), (1195, 39), (1199, 39)],
      (drives at_.1).held = false ∧ ((drives at_.1).port 3).transmitter = .sending goodWord 1200 ∧
      1200 = 1000 + 40 * bitTime ((drives at_.1).port 3).config.rate ∧
      1000 + at_.2 * bitTime ((drives at_.1).port 3).config.rate ≤ (drives at_.1).time.runClock ∧
      (drives at_.1).time.runClock < 1000 + (at_.2 + 1) * bitTime ((drives at_.1).port 3).config.rate) ∧
    1200 ≤ (drives 1200).time.runClock ∧ ((drives 1200).port 3).Sound ∧
    ((sends .planFirst [] [] .free).held = false ∧ ((sends .planFirst [] [] .free).port 3).transmitter = .free) ∧
    { drives 1000 with held := true }.held = true := by
  refine ⟨by decide +kernel, fun sent o h => ?_, by decide +kernel, rfl, by decide +kernel, by decide +kernel,
    ⟨by decide +kernel, by decide +kernel, by decide +kernel, by decide +kernel, by decide +kernel, by decide +kernel,
      by decide +kernel⟩, ⟨rfl, rfl⟩, rfl⟩
  cases (show Comparator.inactive = .held sent o from h)

/-- R3: bit 12 of the word of tag 1 is its first 1, sent as positive then negative; bit 13 is a 0. A bit at 200 kbit/s
takes 5 µs. -/
theorem test_driver_sends_the_half_bits :
    [1055, 1057, 1058, 1059, 1060, 1062, 1063, 1200].map (fun now => (drives now).drive 3) =
      [.sends .positive, .sends .positive, .sends .negative, .sends .negative, .sends .negative, .sends .negative,
        .sends .positive, .null] := by decide +kernel

/-- R5: a line that does not run leaves its pair to the termination. -/
theorem test_driver_is_released_at_reset : State.reset.drive 3 = .released := by decide +kernel

/-- Table 1-3: the gap of 8 bit times at 50 kbit/s is 160 µs. -/
theorem test_gap_takes_160_us :
    ((after (.endOfSending 3) (sends .planFirst [] [] (.sending goodWord 90))).port 3).transmitter =
      .spacing goodWord 250 := by decide +kernel

/-- Line 3 stopping, with the STOP_LINE in execution. -/
def stopping (mode : StopMode) (queue : List OneOff) (t : Transmitter) : State :=
  { (clock 90).withPort 3 { runningPort .transmit 0 with
      state := .stopping, stop := some ⟨mode, 5⟩, sendQueue := queue, transmitter := t } with
    link := { State.reset.link with executing := some ⟨⟨7, [0x12, 3, 0]⟩, .stop 3⟩ } }

theorem witness_StopEnd :
    (∀ mode ∈ [StopMode.drain, .discard], ∀ t ∈ [Transmitter.free, .spacing goodWord 99],
      (stopping mode [] t).held = false ∧ ((stopping mode [] t).port 3).state = .stopping ∧
      ((stopping mode [] t).port 3).stop = some ⟨mode, 5⟩ ∧
      (stopping mode [] t).link.executing = some ⟨⟨7, [0x12, 3, 0]⟩, .stop 3⟩ ∧
      ((stopping mode [] t).port 3).transmitter = t) ∧
    (stopping .drain [] .free).port 3 ≠ (stopping .drain [⟨1, 1⟩] .free).port 3 ∧
    ((stopping .drain [⟨1, 1⟩] .free).port 3).sendQueue ≠ [] := by decide +kernel

theorem test_stop_reply_names_ready_and_the_discarded :
    reply (after (.stopEnd 3) (stopping .discard [] .free)) = some [0x12, 0, 1, 5] := by decide +kernel

/-! ### The Transmit Plan -/

theorem witness_SlotDueAndGrid :
    (∀ due ∈ [90, 91], ∀ pending ∈ [none, some 50],
      let s := sends .planFirst [slot pending (some due)] [] .free
      s.held = false ∧ s.plan.find? (fun other => other.index == 383) = some (slot pending (some due)) ∧
        (slot pending (some due)).nextDue = some due ∧ (slot pending (some due)).settings.mode = .always) ∧
    (let quiet := { slot none (some 90) with settings := { slotSettings with mode := .onUpdate } }
     (sends .planFirst [quiet] [] .free).plan.find? (fun other => other.index == 383) = some quiet ∧
      quiet.settings.mode = .onUpdate ∧ quiet.updated = false) ∧
    0 < slotSettings.period := by decide +kernel

theorem test_due_slot_becomes_pending :
    (after (.slotDue 383) (sends .planFirst [slot none (some 90)] [] .free)).plan.map
      (fun s => (s.pending, s.nextDue)) = [(some 90, some 590)] := by decide +kernel

theorem test_settings_in_range : slotSettings.InRange ∧ { slotSettings with period := 65535, phase := 65534 }.InRange :=
  ⟨⟨by decide, by decide, by decide⟩, ⟨by decide, by decide, by decide⟩⟩

/-- A request at line 3's plan. -/
def planned (plan : List Slot) (payload : List Byte) : State := given (sends .planFirst plan [] .free) payload

theorem planned_offers (plan : List Slot) (payload : List Byte) :
    (planned plan payload).Offers ⟨7, payload⟩ [] :=
  given_offers (s := sends .planFirst plan [] .free) rfl rfl (Nat.zero_lt_succ 7) payload

/-- Slot settings whose fields all take their defaults, and bytes that carry them so. -/
def plainSlot : SlotSettings :=
  { tag := 1, value := 1, period := 5, phase := 0, mode := .always, limit := none, enabled := true
    notifyMiss := false, notifyDone := false }
def plainSlotBytes : List Byte := [0, 1, 0, 0, 1, 0, 5, 255, 255, 255, 0, 0, 255, 255, 255]

/-- Bytes of slot settings with a period of 4. -/
def shortPeriodBytes : List Byte := [0, 1, 0, 0, 1, 0, 4, 0, 0, 0, 0, 0, 1, 0, 0]

/-- R173: settings are carried by their codes, and by FFh where they are the defaults. -/
theorem test_slot_settings_encoded :
    slotSettings.Encoded (slotSettingsBytes 3 slotSettings).tail ∧ plainSlot.Encoded plainSlotBytes ∧
      ∀ t, ¬ SlotSettings.Encoded t shortPeriodBytes := by
  refine ⟨(Laws.slotSettingsOf_iff _ _ [] [] rfl).1 (by decide +kernel),
    (Laws.slotSettingsOf_iff _ _ [] [] rfl).1 (by decide +kernel), fun t h => ?_⟩
  have read := (Laws.slotSettingsOf_iff t shortPeriodBytes [] [] rfl).2 h
  rw [show slotSettingsOf ([] ++ (shortPeriodBytes ++ [])) [].length = none by decide +kernel] at read
  cases read

theorem witness_AddAndChangeSlot :
    (∀ plan ∈ [[], [slot none none]], ∀ number ∈ [383, 384], ∀ line ∈ [(3 : Byte), 12],
      ∀ bytes ∈ [(slotSettingsBytes 3 slotSettings).tail, plainSlotBytes, shortPeriodBytes],
      (planned plan (0x50 :: (bigEndian 2 number ++ line :: bytes))).Offers
        ⟨7, 0x50 :: (bigEndian 2 number ++ line :: bytes)⟩ [] ∧
      (planned plan (0x51 :: (bigEndian 2 number ++ bytes))).Offers ⟨7, 0x51 :: (bigEndian 2 number ++ bytes)⟩ [] ∧
      number < 65536 ∧ bytes.length = 15) ∧
    slotSettings.Encoded (slotSettingsBytes 3 slotSettings).tail ∧ plainSlot.Encoded plainSlotBytes ∧
    (∀ t, ¬ SlotSettings.Encoded t shortPeriodBytes) ∧
    (383 : Nat) = (383 : SlotNo).val ∧ (3 : Byte) = BitVec.ofNat 8 (3 : LineNo).val ∧ 11 < (12 : Byte).toNat ∧
    (planned [] []).plan.find? (fun other => other.index == 383) = none ∧
    (planned [slot none none] []).plan.find? (fun other => other.index == 383) = some (slot none none) := by
  refine ⟨fun plan _ number hn line _ bytes hb => ⟨planned_offers plan _, planned_offers plan _, ?_, ?_⟩,
    test_slot_settings_encoded.1, test_slot_settings_encoded.2.1, test_slot_settings_encoded.2.2, rfl, rfl, by decide,
    rfl, rfl⟩
  · revert number; decide
  · revert bytes; decide

theorem test_added_slot_joins_its_grid :
    (after .addSlot (planned [] (0x50 :: (bigEndian 2 383 ++ slotSettingsBytes 3 slotSettings)))).plan.map
      (fun s => (s.nextDue, s.remaining)) = [(some 400, some 1)] := by decide +kernel

theorem test_disabling_clears_the_pending_instance :
    (after .changeSlot (planned [slot (some 50) (some 550)] (0x51 :: (bigEndian 2 383 ++
      (slotSettingsBytes 3 { slotSettings with enabled := false }).tail)))).plan.map
      (fun s => (s.pending, s.nextDue)) = [(none, none)] := by decide +kernel

theorem witness_SetValueAndRemoveSlot :
    (∀ i ∈ [383, 384],
      (planned [] (0x52 :: (bigEndian 2 i ++ bigEndian 3 9))).Offers ⟨7, 0x52 :: (bigEndian 2 i ++ bigEndian 3 9)⟩ [] ∧
      (planned [slot none none] (0x53 :: bigEndian 2 i)).Offers ⟨7, 0x53 :: bigEndian 2 i⟩ []) ∧
    (9 : Value).toNat = 9 ∧ (∀ slot ∈ (planned [] []).plan, slot.index.val ≠ 383) ∧
    slot none none ∈ (planned [slot none none] []).plan ∧ (slot none none).index.val = 383 ∧
    (planned [slot none none] []).plan.find? (fun other => other.index.val == 383) = some (slot none none) :=
  ⟨fun _ _ => ⟨planned_offers _ _, planned_offers _ _⟩, rfl, by decide, .head _, rfl, rfl⟩

theorem test_set_value_marks_updated :
    (after .setValue (planned [slot none none] (0x52 :: (bigEndian 2 383 ++ bigEndian 3 9)))).plan.map
      (fun s => (s.settings.value, s.updated)) = [(9, true)] := by decide +kernel

theorem test_remove_slot : (after .removeSlot (planned [slot none none] (0x53 :: bigEndian 2 383))).plan = [] := by
  decide +kernel

theorem witness_ReadSlot :
    (∀ i ∈ [383, 384], (planned [slot none none] (0x54 :: (bigEndian 2 i ++ [1]))).Offers
      ⟨7, 0x54 :: (bigEndian 2 i ++ [1])⟩ [] ∧ i < 65536) ∧
    (∀ slot ∈ (planned [] []).plan, slot.index.val ≠ 383) ∧
    (planned [slot none none] []).plan.find? (fun other => other.index.val == 383) = some (slot none none) :=
  ⟨fun i h => ⟨planned_offers _ _, by revert i; decide⟩, by decide, rfl⟩

/-- Table 11-4: READ_SLOT's payload. -/
theorem test_read_slot_length :
    (reply (after .readSlot (planned [slot none none] (0x54 :: (bigEndian 2 383 ++ [0]))))).map List.length =
      some 51 := by decide +kernel

/-- The fields of a SEND of `count` words of tag 1 and value 1 on line 3. -/
def sendPayload (count : Nat) : List Byte :=
  0x55 :: BitVec.ofNat 8 3 :: BitVec.ofNat 8 (List.replicate count (⟨1, 1⟩ : OneOff)).length ::
    (((List.replicate count (⟨1, 1⟩ : OneOff)).map fun w =>
      bigEndian 2 w.tag.toNat ++ bigEndian 3 w.value.toNat).flatten ++ List.replicate (80 - 5 * count) 0)

/-- Line 3 with a number of words in its send queue. -/
def queued (count : Nat) : State := sends .planFirst [] (List.replicate count ⟨1, 1⟩) .free

/-- A SEND of a count to a line, with the tag of its first word place. -/
def refusedSend (line count : Byte) (tag : Nat) : List Byte :=
  0x55 :: line :: count :: (bigEndian 2 tag ++ List.replicate 78 0)

theorem witness_Send :
    (∀ payload ∈ [(12, 1, 1), (3, 0, 1), (3, 17, 1), (3, 1, 4096)].map fun (l, c, t) => refusedSend l c t,
      (given (queued 0) payload).Offers ⟨7, payload⟩ []) ∧
    (bigEndian 2 4096 ++ List.replicate 78 0).length = 80 ∧ 11 < (12 : Byte).toNat ∧ (0 : Byte).toNat = 0 ∧
    16 < (17 : Byte).toNat ∧
    (∃ k < (1 : Byte).toNat, 4095 < fromBytes (((bigEndian 2 4096 ++ List.replicate 78 0).drop (5 * k)).take 2)) ∧
    (∀ held ∈ [16, 17], ∀ count ∈ [1, 16],
      (given (queued held) (sendPayload count)).Offers ⟨7, sendPayload count⟩ [] ∧
      List.replicate count (⟨1, 1⟩ : OneOff) ≠ [] ∧ (List.replicate count (⟨1, 1⟩ : OneOff)).length ≤ 16 ∧
      (List.replicate (80 - 5 * count) (0 : Byte)).length =
        80 - 5 * (List.replicate count (⟨1, 1⟩ : OneOff)).length ∧
      ((queued held).port 3).sendQueue.length = held) := by
  refine ⟨fun payload _ => given_offers (s := queued 0) rfl rfl (Nat.zero_lt_succ 7) _, by decide, by decide, by decide,
    by decide, ⟨0, by decide, by decide +kernel⟩, fun held _ count hc => ?_⟩
  refine ⟨given_offers (s := queued held) rfl rfl (Nat.zero_lt_succ 7) _, ?_, ?_, ?_, ?_⟩
  · revert count; decide
  · revert count; decide
  · simp
  · simp [queued, sends, State.withPort, State.port]

theorem test_send_fills_the_queue :
    ((after .send (given (queued 16) (sendPayload 16))).port 3).sendQueue.length = 32 ∧
      reply (after .send (given (queued 17) (sendPayload 16))) = some [0x55, 6] := by decide +kernel

/-! ### The Tag Table -/

/-- The Tag Table at clock 90 with its entries and the intake. -/
def table (tags : List Entry) (intake : List Item) : State := { lineRuns .receive 90 with tags, intake }

theorem table_takes (tags : List Entry) (i : Item) (rest : List Item)
    (current : (table tags (i :: rest)).expiryWaits = false) : (table tags (i :: rest)).Takes i rest :=
  ⟨rfl, rfl, current, rfl, rfl⟩

theorem witness_TakeUnmatched :
    (∀ kind ∈ [ItemKind.word, .errorWord .check 40, .echo], ∀ marks ∈ [[], [⟨80, 0⟩, ⟨85, 0⟩]],
      (table [] [item kind marks]).Takes (item kind marks) [] ∧ (item kind marks).kind = kind) ∧
    (table [] []).entryOf ⟨.port 3, lineTag goodWord⟩ = none ∧
    (table [] []).entryOf ⟨.any, lineTag goodWord⟩ = none :=
  ⟨fun _ _ _ _ => ⟨table_takes [] _ [] rfl, rfl⟩, rfl, rfl⟩

theorem test_miss_is_counted :
    ((after .intakeTake (table [] [item .word []])).port 3).counters.misses = 1 := by decide +kernel

theorem test_line_start_mark_follows_its_item :
    ((after .intakeTake (table [] [item .echo [⟨80, 0⟩]])).queue 3).records.map CaptureRecord.stamp =
      [⟨90, 0⟩, ⟨80, 0⟩] := by decide +kernel

/-- The table at run clock 1,090 with an exact entry last accepted at a time, and an item with MARKs. -/
def timed (last : Nat) (marks : List Stamp) : State :=
  { table [entry (some last) (.fresh 2000)] [item .word marks] with
    time := { State.reset.time with runClock := 1090 } }

theorem timed_takes (last : Nat) (marks : List Stamp) : (timed last marks).Takes (item .word marks) [] :=
  ⟨rfl, rfl, rfl, rfl, rfl⟩

theorem witness_TakeMatched :
    (∀ last ∈ [90, 91], ∀ marks ∈ [[], [⟨80, 0⟩]], (timed last marks).Takes (item .word marks) [] ∧
      (timed last marks).entryOf ⟨.port 3, lineTag goodWord⟩ = some (entry (some last) (.fresh 2000)) ∧
      (entry (some last) (.fresh 2000)).settings.minInterval = some 1 ∧
      (entry (some last) (.fresh 2000)).lastAccepted = some last ∧ (timed last marks).time.runClock = 1090) ∧
    (let other := { entry none .none with
        key := ⟨.any, 1⟩, settings := { entrySettings with deadline := none, minInterval := none } }
     (table [other] []).entryOf ⟨.port 3, lineTag goodWord⟩ = none ∧
      (table [other] []).entryOf ⟨.any, lineTag goodWord⟩ = some other) := by
  refine ⟨fun last h marks _ => ⟨timed_takes last marks, ?_, rfl, rfl, rfl⟩, by decide +kernel⟩
  clear * - h
  exact (show ∀ last ∈ [90, 91], ([entry (some last) (.fresh 2000)].find? fun e =>
    e.key == ⟨.port 3, lineTag goodWord⟩) = some (entry (some last) (.fresh 2000)) by decide +kernel) last h

theorem test_interval_of_999_us_is_early :
    (after .intakeTake (timed 91 [])).tags.map (fun e => (e.early, e.accepted)) = [(1, 1)] ∧
      (after .intakeTake (timed 90 [])).tags.map (fun e => (e.early, e.accepted)) = [(0, 1)] := by decide +kernel

/-- The Tag Table busy with an item since a moment, with LINE_START MARKs attached and line changes that wait. -/
def busyTable (takenAt : Nat) (marks : List Stamp) (changes : List LineChange) : State :=
  { table [entry none .idle] [] with busy := some ⟨item .word marks, takenAt⟩, lineChanges := changes }

/-- A Tag Table request that waits in execution. -/
def heldAtTable (payload : List Byte) : State :=
  { busyTable 89 [] [] with link := { State.reset.link with executing := some ⟨⟨7, payload⟩, .atTagTable⟩ } }

theorem witness_TagTableTimed :
    (∀ takenAt ∈ [89, 90], ∀ marks ∈ [[], [⟨80, 0⟩]], ∀ changes ∈ [[], [LineChange.started 3 true 50, .stopped 3 89]],
      (busyTable takenAt marks changes).held = false ∧
      (busyTable takenAt marks changes).busy = some ⟨item .word marks, takenAt⟩ ∧
      (busyTable takenAt marks changes).lineChanges = changes ∧ (busyTable takenAt marks changes).time.runClock = 90) ∧
    (table [entry none (.fresh 88)] []).tags.Pairwise (fun a b => a.key.rank < b.key.rank) ∧
    (table [] []).busy = none ∧
    (∀ f ∈ [Freshness.unseen 90, .fresh 90, .unseen 91], (table [entry none f] []).held = false ∧
      (table [entry none f] []).entryOf ⟨.port 3, 1⟩ = some (entry none f) ∧
      (entry none f).settings.deadline = some 1 ∧ (entry none f).freshness = f ∧
      (table [entry none f] []).busy = none) ∧
    (busyTable 89 [] []).busy ≠ none ∧ (table [entry none (.fresh 89)] []).expiryWaits = true ∧
    (⟨0x25, 2, .clearTags⟩ ∈ requestTable ∧ requestCommand [0x25, 255] = .clearTags ∧ [(0x25 : Byte), 255].length = 2) ∧
    (given (busyTable 89 [] []) [0x25, 255]).Offers ⟨7, [0x25, 255]⟩ [] ∧
    (given (table [entry none (.fresh 89)] []) [0x25, 255]).Offers ⟨7, [0x25, 255]⟩ [] ∧
    ((heldAtTable [0x25, 255]).held = false ∧
      (heldAtTable [0x25, 255]).link.executing = some ⟨⟨7, [0x25, 255]⟩, .atTagTable⟩ ∧
      (heldAtTable [0x25, 255]).busy ≠ none ∧ (heldAtTable [0x25, 255]).link.replies.length < 8) ∧
    ((table [] []).intake = [] ∧ entry none (.fresh 89) ∈ (table [entry none (.fresh 89)] []).tags ∧
      (entry none (.fresh 89)).freshness = .fresh 89 ∧ 89 < (table [entry none (.fresh 89)] []).time.runClock) :=
  ⟨by decide +kernel, List.pairwise_singleton _ _, rfl, by decide +kernel, by decide +kernel, by decide +kernel,
    by decide +kernel, given_offers (s := busyTable 89 [] []) rfl rfl (Nat.zero_lt_succ 7) _,
    given_offers (s := table [entry none (.fresh 89)] []) rfl rfl (Nat.zero_lt_succ 7) _, by decide +kernel,
    by decide +kernel⟩

/-- R46: an item is not taken before an expiry that waited. -/
theorem test_take_waits_for_the_expiry :
    (after .intakeTake (table [entry none (.fresh 89)] [item .word []])).intake = [item .word []] ∧
      (after .intakeTake (table [entry none (.fresh 90)] [item .word []])).intake = [] := by decide +kernel

theorem test_monitoring_reaches_the_entry_after_the_work :
    (after .tagTableWorkDone (busyTable 89 [] [.started 3 true 50])).tags.map Entry.freshness = [.unseen 1050] ∧
      (after .tagTableWorkDone (busyTable 89 [] [.started 3 true 50, .stopped 3 89])).tags.map Entry.freshness =
        [.idle] := by decide +kernel

/-- R33: a Tag Table request taken while the table works waits in execution, and is answered after the work. -/
theorem test_tag_request_waits_for_the_work :
    (after .clearTags (given (busyTable 89 [] []) [0x25, 255])).link = (heldAtTable [0x25, 255]).link ∧
      reply (after .clearTags (after .tagTableWorkDone (heldAtTable [0x25, 255]))) = some [0x25, 0, 0, 1] := by
  decide +kernel

theorem test_expiry_makes_the_entry_stale :
    (after (.freshnessExpiry 3 1) (table [entry none (.fresh 90)] [])).tags.map Entry.freshness = [.stale 90] := by
  decide +kernel

theorem table_offers (tags : List Entry) (payload : List Byte)
    (current : (given (table tags []) payload).expiryWaits = false) :
    (given (table tags []) payload).OffersTag ⟨7, payload⟩ [] :=
  given_offersTag (s := table tags []) rfl rfl (Nat.zero_lt_succ 7) rfl payload current

theorem test_entry_settings_in_range : entrySettings.InRange :=
  ⟨by decide, by decide⟩

/-- Entries of other tags, to fill the table. -/
def filler (count : Nat) : List Entry := List.replicate count { entry none .idle with key := ⟨.port 0, 5⟩ }

/-- Entry settings whose fields all take their defaults, and bytes that carry them so. -/
def plainEntry : EntrySettings :=
  { routeLine := true, routeMerged := false, keepLatest := false, onChange := false, notify := .none
    deadline := none, minInterval := none, earlyAction := .keep, notifyEarly := false }
def plainEntryBytes : List Byte := List.replicate 10 255

/-- Bytes of entry settings with an early action of 2. -/
def badEntryBytes : List Byte := [1, 0, 0, 0, 0, 0, 0, 0, 2, 0]

theorem test_entry_settings_encoded :
    entrySettings.Encoded (entrySettingsBytes entrySettings) ∧ plainEntry.Encoded plainEntryBytes ∧
      ∀ t, ¬ EntrySettings.Encoded t badEntryBytes := by
  refine ⟨(Laws.entrySettingsOf_iff _ _ [] [] rfl).1 (by decide +kernel),
    (Laws.entrySettingsOf_iff _ _ [] [] rfl).1 (by decide +kernel), fun t h => ?_⟩
  have read := (Laws.entrySettingsOf_iff t badEntryBytes [] [] rfl).2 h
  rw [show entrySettingsOf ([] ++ (badEntryBytes ++ [])) [].length = none by decide +kernel] at read
  cases read

theorem witness_AddAndChangeTag :
    (∀ code ∈ [(0x20 : Byte), 0x21], ∀ line ∈ [(3 : Byte), 12, 13], ∀ number ∈ [1, 4095, 4096],
      ∀ bytes ∈ [entrySettingsBytes entrySettings, plainEntryBytes, badEntryBytes],
      (given (table [entry none .idle] []) (code :: line :: (bigEndian 2 number ++ bytes))).OffersTag
        ⟨7, code :: line :: (bigEndian 2 number ++ bytes)⟩ [] ∧ number < 65536 ∧ bytes.length = 10) ∧
    keyBytes ⟨.port 3, 1⟩ = 3 :: bigEndian 2 1 ∧ keyBytes ⟨.any, 1⟩ = 12 :: bigEndian 2 1 ∧
    entrySettings.Encoded (entrySettingsBytes entrySettings) ∧ plainEntry.Encoded plainEntryBytes ∧
    (∀ t, ¬ EntrySettings.Encoded t badEntryBytes) ∧
    entrySettings.Allowed ⟨.port 3, 1⟩ ∧ ¬ entrySettings.Allowed ⟨.any, 1⟩ ∧ plainEntry.Allowed ⟨.any, 1⟩ ∧
    (table [entry none .idle] []).entryOf ⟨.port 3, 1⟩ = some (entry none .idle) ∧
    (table [entry none .idle] []).entryOf ⟨.any, 1⟩ = none ∧
    (∀ count ∈ [639, 640],
      (given (table (filler count) []) (0x20 :: (keyBytes ⟨.port 3, 1⟩ ++ plainEntryBytes))).OffersTag
        ⟨7, 0x20 :: (keyBytes ⟨.port 3, 1⟩ ++ plainEntryBytes)⟩ [] ∧
      (table (filler count) []).entryOf ⟨.port 3, 1⟩ = none ∧ (table (filler count) []).tags.length = count) := by
  refine ⟨fun code _ line _ number hn bytes hb => ⟨table_offers [entry none .idle] _ rfl, ?_, ?_⟩, rfl, rfl,
    test_entry_settings_encoded.1, test_entry_settings_encoded.2.1, test_entry_settings_encoded.2.2,
    ⟨by decide, by decide⟩, fun h => absurd (h.1 rfl).1 (by decide), ⟨fun _ => ⟨rfl, rfl⟩, by decide⟩, rfl, rfl,
    fun count h => ⟨table_offers _ _ ?_, ?_, ?_⟩⟩
  · revert number; decide
  · revert bytes; decide
  · revert count; decide +kernel
  · revert count; decide +kernel
  · simp [table, filler]

theorem test_added_entry_is_monitored :
    (after .addTag (given (table [] []) (0x20 :: (keyBytes ⟨.port 3, 1⟩ ++ entrySettingsBytes entrySettings)))).tags =
      [{ key := ⟨.port 3, 1⟩, settings := entrySettings, freshness := .unseen 1090 }] := by decide +kernel

theorem test_change_without_keep_latest_clears_latest :
    (after .changeTag (given (table [{ entry none .idle with latest := some ⟨1, ⟨0, 0⟩, 3⟩ }] [])
      (0x21 :: (keyBytes ⟨.port 3, 1⟩ ++ entrySettingsBytes { entrySettings with keepLatest := false })))).tags.map
        Entry.latest = [none] := by decide +kernel

theorem witness_RemoveClearListTags :
    (∀ payload ∈ [0x22 :: (13 : Byte) :: bigEndian 2 1, 0x22 :: (12 : Byte) :: bigEndian 2 4096,
        0x24 :: (13 : Byte) :: (bigEndian 2 1 ++ [1]), 0x24 :: (12 : Byte) :: (bigEndian 2 4096 ++ [1]), [0x25, 13],
        [0x25, 254], 0x22 :: keyBytes ⟨.port 3, 1⟩, [0x25, BitVec.ofNat 8 (KeyLine.port 3).number],
        [0x25, BitVec.ofNat 8 KeyLine.any.number], [0x25, 255],
        0x24 :: (keyBytes ⟨.port 3, 1⟩ ++ [BitVec.ofNat 8 0]), 0x24 :: (keyBytes ⟨.port 3, 1⟩ ++ [BitVec.ofNat 8 1]),
        0x24 :: (keyBytes ⟨.port 3, 1⟩ ++ [BitVec.ofNat 8 12]), 0x24 :: (keyBytes ⟨.port 3, 1⟩ ++ [BitVec.ofNat 8 13]),
        0x24 :: (keyBytes ⟨.port 3, 1⟩ ++ [BitVec.ofNat 8 255])],
      (given (table [entry none .idle] []) payload).OffersTag ⟨7, payload⟩ []) ∧
    12 < (13 : Byte).toNat ∧ 4095 < 4096 ∧ 12 < (254 : Byte).toNat ∧ (254 : Byte).toNat < 255 :=
  ⟨fun payload _ => table_offers [entry none .idle] payload rfl, by decide, by decide, by decide, by decide⟩

theorem test_remove_tag :
    (after .removeTag (given (table [entry none .idle] []) (0x22 :: keyBytes ⟨.port 3, 1⟩))).tags = [] := by
  decide +kernel

theorem test_clear_tags_answers_the_count :
    reply (after .clearTags (given (table [entry none .idle] []) [0x25, 255])) = some [0x25, 0, 0, 1] := by
  decide +kernel

/-- Table 11-4: LIST_TAGS's payload is 40 bytes. -/
theorem test_list_tags :
    reply (after .listTags (given (table [entry none .idle] []) (0x24 :: (keyBytes ⟨.port 0, 0⟩ ++ [12])))) =
      some ([0x24, 0, 1, 0, 3, 0, 1] ++ List.replicate 33 0) := by decide +kernel

theorem witness_ReadTag :
    (∀ payload ∈ [0x23 :: (13 : Byte) :: (bigEndian 2 1 ++ [0]), 0x23 :: (3 : Byte) :: (bigEndian 2 4096 ++ [0]),
        0x23 :: (keyBytes ⟨.port 3, 1⟩ ++ [1])],
      (given (table [entry none .idle] []) payload).OffersTag ⟨7, payload⟩ []) ∧
    (table [] []).entryOf ⟨.port 3, 1⟩ = none ∧
    (table [entry none .idle] []).entryOf ⟨.port 3, 1⟩ = some (entry none .idle) :=
  ⟨fun payload _ => table_offers _ payload rfl, rfl, rfl⟩

/-- Table 11-4: READ_TAG's payload. -/
theorem test_read_tag_length :
    (reply (after .readTag (given (table [entry none .idle] []) (0x23 :: (keyBytes ⟨.port 3, 1⟩ ++ [1]))))).map
      List.length = some 53 := by decide +kernel

/-! ### Capture queues -/

/-- A queue of depth 2 with a number of records, one of them in flight where there is one. -/
def queueOf2 (policy : QueuePolicy) (held : Nat) : CaptureQueue :=
  { depth := 2, policy, records := List.replicate held record, inFlight := min held 1
    offered := BitVec.ofNat 32 held, pendingLoss := 4294967295 }

theorem witness_QueueOffer :
    (∀ policy ∈ [QueuePolicy.keepOld, .keepNew],
      (queueOf2 policy 1).Sound ∧ (queueOf2 policy 1).records.length < (queueOf2 policy 1).depth ∧
      (queueOf2 policy 2).Sound ∧ (queueOf2 policy 2).records.length = (queueOf2 policy 2).depth) ∧
    (∀ held ∈ [63, 64], (armedWith held).reports.notices.length = held ∧ (armedWith held).reports.noticeLoss ≤ 65535 ∧
      ((armedWith held).fullNotice ⟨0, 0⟩ 1).length = 1 ∧ (armedWith held).fullNotice ⟨0, 0⟩ 2 = []) :=
  ⟨fun _ _ => ⟨⟨rfl, Nat.le_succ 1, Nat.le_refl 1, Nat.le_refl _⟩, Nat.lt_succ_self 1,
    ⟨rfl, Nat.le_refl 2, Nat.le_succ 1, Nat.le_refl _⟩, rfl⟩, by decide +kernel⟩

theorem test_keep_new_takes_the_oldest_waiting_place :
    ((queueOf2 .keepNew 2).offer { record with bits := 1 }).records.map CaptureRecord.bits = [0, 1] ∧
      ((queueOf2 .keepOld 2).offer { record with bits := 1 }).records.map CaptureRecord.bits = [0, 0] ∧
      ((queueOf2 .keepOld 2).offer record).lostTotal = 1 := by decide +kernel

/-- The reset state with line 3's queue holding one record. -/
def holding : State := State.reset.withQueue 3 { (State.reset.queue 3) with records := [record], offered := 1 }

theorem holding_offers (payload : List Byte) : (given holding payload).Offers ⟨7, payload⟩ [] :=
  given_offers (s := holding) rfl rfl (Nat.zero_lt_succ 7) payload

theorem witness_SetQueue :
    (∀ payload ∈ [0x30 :: (13 : Byte) :: (bigEndian 2 0 ++ [0]), 0x30 :: (3 : Byte) :: (bigEndian 2 0 ++ [2]),
        0x30 :: (3 : Byte) :: (bigEndian 2 8193 ++ [0]), 0x30 :: (12 : Byte) :: (bigEndian 2 8192 ++ [0]),
        0x30 :: (3 : Byte) :: (bigEndian 2 65535 ++ [1]), 0x30 :: (3 : Byte) :: (bigEndian 2 2560 ++ [1]),
        0x30 :: (3 : Byte) :: (bigEndian 2 2561 ++ [1])],
      (given holding payload).Offers ⟨7, payload⟩ []) ∧
    (3 : Byte) = BitVec.ofNat 8 (3 : QueueNo).val ∧ (12 : Byte) = BitVec.ofNat 8 (12 : QueueNo).val ∧
    (3 : QueueNo) = (3 : LineNo).castSucc ∧
    (holding.port 3).state ≠ .running ∧ (holding.port 3).state ≠ .stopping ∧ (holding.queue 3).inFlight = 0 ∧
    holding.otherDepths 3 + 2560 = 8192 ∧ 8192 < holding.otherDepths 3 + 2561 ∧
    ((lineRuns .receive 90).port 3).state = .running :=
  ⟨fun payload _ => holding_offers payload, by decide, by decide, by decide, by decide +kernel, by decide +kernel,
    by decide +kernel, by decide +kernel, by decide +kernel, rfl⟩

theorem test_depth_change_discards_and_counts :
    ((after .setQueue (given holding (0x30 :: 3 :: (bigEndian 2 2560 ++ [1])))).queue 3).lostTotal = 1 ∧
      reply (after .setQueue (given holding (0x30 :: 3 :: (bigEndian 2 2560 ++ [1])))) =
        some [0x30, 0, 0, 1, 0, 0] := by decide +kernel

theorem witness_ReadQueue :
    (∀ payload ∈ [[0x31, 13, 0], [0x31, BitVec.ofNat 8 (3 : QueueNo).val, 1], [0x31, BitVec.ofNat 8 (0 : QueueNo).val, 1]],
      (given holding payload).Offers ⟨7, payload⟩ []) ∧
    (holding.queue 3).records ≠ [] ∧ (holding.queue 0).records = [] :=
  ⟨fun payload _ => holding_offers payload, by decide +kernel, by decide +kernel⟩

theorem test_clear_with_a_record_is_refused :
    reply (after .readQueue (given holding [0x31, 3, 1])) = some [0x31, 5] := by decide +kernel

/-! ### Line control -/

/-- The reset state with line 3 in a role and state. -/
def lineIn (role : Role) (state : LineState) : State :=
  (clock 90).withPort 3 { config := { role }, state, sendQueue := [⟨1, 1⟩] }

theorem lineIn_offers (role : Role) (state : LineState) (payload : List Byte) :
    (given (lineIn role state) payload).Offers ⟨7, payload⟩ [] :=
  given_offers (s := lineIn role state) rfl rfl (Nat.zero_lt_succ 7) payload

/-- A configuration with an echo threshold. -/
def lineConfig (threshold : Nat) : LineConfig := { role := .receive, rate := .k200, echoThreshold := threshold }

/-- Bytes of a line configuration with a role, the other fields at their defaults but an echo threshold. -/
def configBytes (role threshold : Byte) : List Byte := [role, 255, 255, 255, 255, 255, threshold, 255]

theorem test_line_configurations_encoded :
    (∀ threshold ∈ [1, 15], (lineConfig threshold).Encoded (lineConfigBytes (lineConfig threshold))) ∧
      LineConfig.Encoded {} (configBytes 255 255) ∧ LineConfig.Encoded { role := .receive } (configBytes 1 255) ∧
      ∀ bytes ∈ [configBytes 4 1, configBytes 0 0, configBytes 0 16], ∀ c, ¬ LineConfig.Encoded c bytes := by
  refine ⟨fun threshold h => (Laws.lineConfigOf_iff _ _ [] [] rfl).1 ?_,
    (Laws.lineConfigOf_iff _ _ [] [] rfl).1 (by decide +kernel),
    (Laws.lineConfigOf_iff _ _ [] [] rfl).1 (by decide +kernel), fun bytes h c encoded => ?_⟩
  · revert threshold; decide +kernel
  · obtain ⟨length, refused⟩ := (show ∀ bytes ∈ [configBytes 4 1, configBytes 0 0, configBytes 0 16],
      bytes.length = 8 ∧ lineConfigOf ([] ++ (bytes ++ [])) ([] : List Byte).length = none by decide +kernel) bytes h
    have read := (Laws.lineConfigOf_iff c bytes [] [] length).2 encoded
    rw [refused] at read
    cases read

theorem witness_ConfigureLine :
    (∀ state ∈ [LineState.off, .ready, .running, .stopping, .fault], ∀ line ∈ [(3 : Byte), 12],
      ∀ bytes ∈ [lineConfigBytes (lineConfig 15), configBytes 255 255, configBytes 1 255, configBytes 0 16],
      (given (lineIn .echo state) (0x10 :: line :: bytes)).Offers ⟨7, 0x10 :: line :: bytes⟩ [] ∧ bytes.length = 8 ∧
      ((lineIn .echo state).port 3).state = state) ∧
    (3 : Byte) = BitVec.ofNat 8 (3 : LineNo).val ∧ 11 < (12 : Byte).toNat ∧
    (lineConfig 15).Encoded (lineConfigBytes (lineConfig 15)) ∧ LineConfig.Encoded {} (configBytes 255 255) ∧
    LineConfig.Encoded { role := .receive } (configBytes 1 255) ∧ ∀ c, ¬ LineConfig.Encoded c (configBytes 0 16) := by
  refine ⟨fun state _ line _ bytes h => ⟨lineIn_offers .echo state _, ?_, rfl⟩, rfl, by decide,
    test_line_configurations_encoded.1 15 (by decide), test_line_configurations_encoded.2.1,
    test_line_configurations_encoded.2.2.1, test_line_configurations_encoded.2.2.2 _ (by decide)⟩
  revert bytes; decide

theorem test_configure_as_receive_empties_the_send_queue :
    ((after .configureLine (given (lineIn .echo .ready) (0x10 :: 3 :: lineConfigBytes (lineConfig 3)))).port
      3).sendQueue = [] ∧
      reply (after .configureLine (given (lineIn .echo .ready) (0x10 :: 3 :: lineConfigBytes (lineConfig 3)))) =
        some [0x10, 0, 1, 1] := by decide +kernel

/-- Line 3 in a role, READY, with an intake and what the Tag Table works on. -/
def startable (role : Role) (intake : List Item) (busy : Option Busy) : State :=
  { lineIn role .ready with intake, busy }

theorem witness_StartLine :
    (∀ role ∈ [Role.receive, .transmit, .echo],
      ∀ intake ∈ [[], [itemOf 3, itemOf 3, itemOf 5]], ∀ busy ∈ [none, some ⟨itemOf 3, 89⟩, some ⟨itemOf 5, 89⟩],
      (given (startable role intake busy) [0x11, BitVec.ofNat 8 3]).Offers ⟨7, [0x11, BitVec.ofNat 8 3]⟩ [] ∧
      ((startable role intake busy).port 3).state = .ready ∧
      ((startable role intake busy).port 3).config.role = role) ∧
    ((∀ item ∈ ([] : List Item), item.line ≠ 3) ∧ (∀ b, (some ⟨itemOf 5, 89⟩ : Option Busy) = some b → b.item.line ≠ 3)) ∧
    ([itemOf 3, itemOf 3, itemOf 5] = [itemOf 3] ++ itemOf 3 :: [itemOf 5] ∧ (itemOf 3).line = 3 ∧
      ∀ other ∈ [itemOf 5], other.line ≠ 3) ∧
    (given (lineIn .echo .fault) [0x11, 12]).Offers ⟨7, [0x11, 12]⟩ [] ∧
    ((lineIn .echo .fault).port 3).state ≠ .ready :=
  ⟨fun role _ intake _ busy _ =>
      ⟨given_offers (s := startable role intake busy) rfl rfl (Nat.zero_lt_succ 7) _, rfl, rfl⟩,
    ⟨by decide, fun b h => by cases h; decide⟩, by decide +kernel, lineIn_offers _ _ _, by decide⟩

theorem test_start_line_marks_its_queue :
    ((after .startLine (given (lineIn .receive .ready) [0x11, 3])).queue 3).records =
      [{ body := .mark .lineStart, line := 3, bits := 0, stamp := ⟨0, 0⟩ }] ∧
      ((after .startLine (given (lineIn .receive .ready) [0x11, 3])).port 3).t0 = some 90 := by decide +kernel

/-- R62: the MARK follows the newest item of the line in the intake. -/
theorem test_start_attaches_its_mark :
    (after .startLine (given (startable .receive [itemOf 3, itemOf 3, itemOf 5] none) [0x11, 3])).intake.map
      (fun i => i.marks.length) = [0, 1, 0] := by decide +kernel

theorem witness_StopLine :
    (∀ payload ∈ [[0x12, 12, 0], [0x12, 3, 2], [0x12, 12, 2]],
      (given (lineIn .echo .fault) payload).Offers ⟨7, payload⟩ []) ∧
    11 < (12 : Byte).toNat ∧ 1 < (2 : Byte).toNat ∧
    (∀ mode ∈ [StopMode.drain, .discard], ∀ state ∈ [LineState.fault, .off, .ready],
      (given (lineIn .echo state) [0x12, BitVec.ofNat 8 3, if mode = .drain then 0 else 1]).Offers
        ⟨7, [0x12, BitVec.ofNat 8 3, if mode = .drain then 0 else 1]⟩ [] ∧
      ((lineIn .echo state).port 3).state = state) ∧
    (∀ f ∈ [Freshness.fresh 89, .fresh 90],
      let s := table [entry none f] []
      (given s [0x12, BitVec.ofNat 8 3, 0]).Offers ⟨7, [0x12, BitVec.ofNat 8 3, 0]⟩ [] ∧
      (s.port 3).state = .running ∧ (s.port 3).config.role = .receive ∧ (s.port 3).transmitter = .dormant ∧
      s.busy = none ∧ s.expiryWaits = decide (f = .fresh 89)) ∧
    (((busyTable 89 [] []).port 3).state = .running ∧ ((busyTable 89 [] []).port 3).config.role = .receive ∧
      ((busyTable 89 [] []).port 3).transmitter = .dormant ∧ (busyTable 89 [] []).busy ≠ none ∧
      (given (busyTable 89 [] []) [0x12, BitVec.ofNat 8 3, 0]).Offers ⟨7, [0x12, BitVec.ofNat 8 3, 0]⟩ []) ∧
    (((queued 1).port 3).state = .running ∧ ((queued 1).port 3).config.role = .transmit ∧
      ((queued 1).port 3).sendQueue ≠ [] ∧ ((queued 0).port 3).transmitter = .free ∧
      ((queued 0).port 3).sendQueue = []) := by
  refine ⟨fun payload _ => lineIn_offers .echo .fault payload, by decide, by decide,
    fun _ _ state _ => ⟨lineIn_offers .echo state _, rfl⟩,
    fun f h => ⟨given_offers (s := table [entry none f] []) rfl rfl (Nat.zero_lt_succ 7) _, rfl, rfl, rfl, rfl, ?_⟩,
    ⟨rfl, rfl, rfl, by decide, given_offers (s := busyTable 89 [] []) rfl rfl (Nat.zero_lt_succ 7) _⟩, by decide +kernel⟩
  revert f; decide +kernel

theorem test_stop_holds_the_executor :
    (after .stopLine (given (queued 1) [0x12, 3, 0])).link.executing = some ⟨⟨7, [0x12, 3, 0]⟩, .stop 3⟩ ∧
      reply (after .stopLine (given (queued 1) [0x12, 3, 1])) = some [0x12, 0, 1, 1] := by decide +kernel

theorem witness_ReadLineAndClearFault :
    (∀ payload ∈ [[0x13, 12, 1], [0x14, 12], [0x13, BitVec.ofNat 8 3, 1], [0x14, BitVec.ofNat 8 3]],
      (given (lineIn .echo .fault) payload).Offers ⟨7, payload⟩ [] ∧
      (given (lineIn .echo .ready) payload).Offers ⟨7, payload⟩ []) ∧
    ((lineIn .echo .fault).port 3).state = .fault ∧ ((lineIn .echo .ready).port 3).state ≠ .fault :=
  ⟨fun payload _ => ⟨lineIn_offers _ _ payload, lineIn_offers _ _ payload⟩, rfl, by decide +kernel⟩

/-- Table 11-4: READ_LINE's payload. -/
theorem test_read_line_length :
    (reply (after .readLine (given (lineIn .echo .fault) [0x13, 3, 0]))).map List.length = some 62 := by decide +kernel

theorem test_clear_fault_returns_to_ready :
    ((after .clearFault (given (lineIn .echo .fault) [0x14, 3])).port 3).state = .ready := by decide +kernel

/-! ### The host link -/

/-- The reset state with the frame receiver in a state, at a run clock. -/
def linkAt (now : Nat) (r : FrameReceiver) : State :=
  { clock now with link := { State.reset.link with receiver := r } }

/-- A REPLY frame of SEQ 7 and payload 55h as the receiver has it before its last byte, and that byte. -/
def replyFrame : List Byte := (frameBytes kindReply 7 [0x55]).tail

theorem witness_FrameReceiver :
    (linkAt 9 .hunt).held = false ∧ (linkAt 9 .hunt).link.receiver = .hunt ∧
    (linkAt 9 (.header [] 5 false)).link.receiver = .header [] 5 false ∧
    (linkAt 9 (.header [250] 5 false)).link.receiver = .header [250] 5 false ∧
    (linkAt 9 (.header [250, 1] 5 false)).link.receiver = .header [250, 1] 5 false ∧
    ((linkAt 9 (.body [1, 2, 7, 0x55] 5 true)).link.receiver = .body (1 :: 2 :: 7 :: [0x55]) 5 true ∧
      [(0x55 : Byte)].length < (1 : Byte).toNat + 1) ∧
    (∃ high low : Byte, (linkAt 9 (.body [1, 2, 7, 0x55, high] 5 true)).link.receiver =
        .body (1 :: 2 :: 7 :: ([0x55] ++ [high])) 5 true ∧ [(0x55 : Byte)].length = (1 : Byte).toNat ∧
      high.toNat * 256 + low.toNat = (frameCrc (1 :: 2 :: 7 :: [0x55])).toNat ∧
      high.toNat * 256 + (low + 1).toNat ≠ (frameCrc (1 :: 2 :: 7 :: [0x55])).toNat) ∧
    (∀ now ∈ [2004, 2005], ∀ started ∈ [false, true],
      (linkAt now (.header [3] 5 started)).link.receiver = .header [3] 5 started ∧
      (linkAt now (.body [3, 1, 7] 5 started)).link.receiver = .body [3, 1, 7] 5 started) :=
  ⟨rfl, rfl, rfl, rfl, rfl, by decide +kernel,
    ⟨replyFrame.getD 4 0, replyFrame.getD 5 0, rfl, rfl, by decide +kernel, by decide +kernel⟩, by decide +kernel⟩

/-- R142: a good REPLY frame is a kind error; with its last byte changed it is a CRC error. -/
theorem test_reply_frame_is_a_kind_error :
    let before := linkAt 9 (.body (replyFrame.take 5) 5 true)
    (after (.byteReceived (replyFrame.getD 5 0) true) before).link.counters.kindErrors = 1 ∧
      (after (.byteReceived (replyFrame.getD 5 0 + 1) true) before).link.counters.crcErrors = 1 := by decide +kernel

theorem test_length_of_251_is_an_error :
    (after (.byteReceived 251 true) (linkAt 9 (.header [] 5 false))).link.counters.lengthErrors = 1 ∧
      (after (.byteReceived 250 true) (linkAt 9 (.header [] 5 false))).link.receiver = .header [250] 9 false := by
  decide +kernel

theorem test_gap_of_2000_us_abandons_the_frame :
    (after .interByteTimeout (linkAt 2005 (.body [3, 1, 7] 5 false))).link.receiver = .hunt ∧
      (after .interByteTimeout (linkAt 2004 (.body [3, 1, 7] 5 false))).link.receiver = .body [3, 1, 7] 5 false := by
  decide +kernel

theorem test_start_bit_stops_the_gap :
    (after .startBit (linkAt 9 (.header [3] 5 false))).link.receiver = .header [3] 5 true := by decide +kernel

/-- A number of requests of SEQ 9 waiting, a reply cached, and the executor holding a request. -/
def linkBusy (waiting listed : Nat) : State :=
  { State.reset with link := { State.reset.link with
      requests := List.replicate waiting ⟨9, [0x01]⟩
      executing := some ⟨⟨8, [0x12, 3, 0]⟩, .stop 3⟩
      cache := [⟨5, [0x01, 0], true⟩]
      replies := List.replicate listed ⟨5, [0x01, 0], false⟩ } }

/-- A request of SEQ 7 with a payload of 250 bytes. -/
def largest : Request := ⟨7, List.replicate 250 0xA7⟩

theorem witness_RequestFrameReceived :
    (linkBusy 3 0).held = false ∧ (linkBusy 3 0).link.receiver = .hunt ∧ largest.payload.length ≤ 250 ∧
    (linkBusy 3 0).link.requests.length < 4 ∧ (∀ reply ∈ (linkBusy 3 0).link.cache, reply.seq ≠ largest.seq) ∧
    (∀ e ∈ (linkBusy 3 0).link.executing, e.request.seq ≠ largest.seq) ∧
    (∀ other ∈ (linkBusy 3 0).link.requests, other.seq ≠ largest.seq) := by decide +kernel

theorem witness_RepeatsAndBusy :
    (∀ listed ∈ [6, 7], ∀ seq ∈ [(5 : Byte), 8, 9, 7],
      (linkBusy 4 listed).held = false ∧ (linkBusy 4 listed).link.receiver = .hunt ∧
      (linkBusy 4 listed).link.replies.length = listed ∧ (⟨seq, [0x01]⟩ : Request).payload.length ≤ 250) ∧
    (linkBusy 4 6).link.cache.find? (fun other => other.seq == 5) = some ⟨5, [0x01, 0], true⟩ ∧
    (∃ e ∈ (linkBusy 4 6).link.executing, e.request.seq = 8) ∧
    (∃ other ∈ (linkBusy 4 6).link.requests, other.seq = 9) ∧
    (∀ reply ∈ (linkBusy 4 6).link.cache, reply.seq ≠ 7) ∧
    (∀ e ∈ (linkBusy 4 6).link.executing, e.request.seq ≠ 7) ∧
    (∀ other ∈ (linkBusy 4 6).link.requests, other.seq ≠ 7) ∧ (linkBusy 4 6).link.requests.length = 4 := by
  decide +kernel

/-- The state a list of commands leads to. -/
def afterAll (l : List Instr) (s : State) : State := l.foldl (fun s c => after c s) s

theorem test_fifth_request_is_busy :
    reply (afterAll ((frameBytes kindRequest 7 [0x01]).map fun b => .byteReceived b true) (linkBusy 4 6)) =
      some [0x01, 1] := by decide +kernel

/-- The executor free, with requests waiting and a number of replies listed. -/
def linkFree (waiting : List Request) (listed : Nat) : State :=
  { State.reset with link := { State.reset.link with
      requests := waiting, replies := List.replicate listed ⟨5, [0x01, 0], false⟩ } }

theorem witness_UnknownAndFormat :
    (∀ payload ∈ [[], [0x77, 1], [0x01, 0], [0x03], [0x03, 0x00, 0x00], [0x55], [0x13, 12, 2], [0x31, 13, 255],
        [0x54, 2, 0, 2], [0x23, 3, 0, 1, 2]],
      (given State.reset payload).Offers ⟨7, payload⟩ []) ∧
    (∀ row ∈ requestTable, row.code ≠ 0x77) ∧
    (∃ row ∈ requestTable, requestCommand [0x01, 0] = row.command ∧ [(0x01 : Byte), 0].length ≠ row.length) ∧
    (∃ row ∈ requestTable, requestCommand [0x03] = row.command ∧ [(0x03 : Byte)].length ≠ row.length) ∧
    1 < (2 : Byte).toNat ∧ 1 < (255 : Byte).toNat ∧ State.reset.busy = none ∧ State.reset.expiryWaits = false ∧
    (IsRequestRow .send ∧ IsRequestRow .unknownRequest) ∧
    ((linkBusy 1 0).link.executing = some ⟨⟨8, [0x12, 3, 0]⟩, .stop 3⟩ ∧ ExecutorHold.stop 3 ≠ .atTagTable) ∧
    ((heldAtTable [0x25, 255]).link.executing = some ⟨⟨7, [0x25, 255]⟩, .atTagTable⟩ ∧
      requestCommand [0x25, 255] ≠ .send) ∧
    (∀ listed ∈ [0, 8], ∀ waiting ∈ [[], [⟨7, [0x01]⟩]],
      (linkFree waiting listed).link.executing = none ∧ (linkFree waiting listed).link.replies.length = listed ∧
      (linkFree waiting listed).link.requests = waiting) ∧
    requestCommand [0x01] ≠ .send :=
  ⟨fun payload _ => reset_offers payload, by decide +kernel, by decide +kernel, by decide +kernel, by decide,
    by decide, rfl, rfl, ⟨.inr ⟨⟨0x55, 83, .send⟩, by decide, rfl⟩, .inl rfl⟩, ⟨rfl, by decide⟩, ⟨rfl, by decide⟩,
    by decide +kernel, by decide⟩

/-- R148, R146, R134: IDENTIFY waits while a stop runs and while 8 replies are listed. -/
theorem test_executor_waits :
    ((after .identify (linkBusy 1 0)).link.requests.length, (after .identify (linkFree [⟨7, [0x01]⟩] 8)).link.requests.length,
      (after .identify (linkFree [⟨7, [0x01]⟩] 7)).link.requests.length) = (1, 1, 0) := by decide +kernel

theorem test_statuses_of_unknown_and_format :
    reply (after .unknownRequest (given State.reset [0x77])) = some [0x77, 2] ∧
      reply (after .unknownRequest (given State.reset [])) = some [0, 3] ∧
      reply (after .identify (given State.reset [0x01, 0])) = some [0x01, 3] := by decide +kernel

theorem witness_Identify : (given State.reset [0x01]).Offers ⟨7, [0x01]⟩ [] := reset_offers _

/-- Table 0-5: 640 entries are 0280h, 8,192 records 2000h, 4,096 records 1000h, 384 slots 0180h; 6,412 is 190Ch. -/
theorem test_identify :
    reply (after .identify (given State.reset [0x01])) =
      some [0x01, 0, 0x19, 0x0C, 1, 12, 16, 0x02, 0x80, 0x20, 0, 0x10, 0, 0x01, 0x80, 32, 64, 8, 12, 4, 4, 8, 250] := by
  decide +kernel

theorem witness_GetStatus : (given State.reset [0x02]).Offers ⟨7, [0x02]⟩ [] := reset_offers _

/-- Table 11-4: GET_STATUS's payload; 2,048 pool slots are free after power-on (8,192 - 12 × 512). -/
theorem test_get_status :
    (reply (after .getStatus (given State.reset [0x02]))).map (fun l => (l.length, l.drop 57)) =
      some (59, [0x08, 0x00]) := by decide +kernel

theorem witness_Attn :
    resetFrame.held = false ∧
    (after .linkFrameComplete resetFrame).held = false ∧
    (after .linkFrameComplete resetFrame).link.executing = some ⟨⟨7, [0x03, 0x00]⟩, .resetDue⟩ ∧
    exec .resetFullTakesEffect (after .linkFrameComplete resetFrame) =
      .next (after .resetFullTakesEffect (after .linkFrameComplete resetFrame)) ∧
    (given State.reset [0x03, 0x01]).Offers ⟨7, [0x03, 0x01]⟩ [] ∧
    exec .resetTraffic (given State.reset [0x03, 0x01]) =
      .next (after .resetTraffic (given State.reset [0x03, 0x01])) ∧
    (given State.reset [0x02]).Offers ⟨7, [0x02]⟩ [] ∧
    exec .getStatus (given State.reset [0x02]) = .next (after .getStatus (given State.reset [0x02])) :=
  ⟨rfl, rfl, by decide +kernel, rfl, reset_offers _, rfl, reset_offers _, rfl⟩

theorem test_attn_follows_a_fault : (lineIn .echo .fault).attn = true ∧ (lineIn .echo .ready).attn = false := by
  decide +kernel

/-- A report of a sequence number. -/
def report (seq : Byte) (body : ReportBody) (due : Bool) : Report := ⟨seq, body, due⟩

/-- Reporting in a state with a window and the replies that wait. -/
def reports (state : ReportingState) (window : List Report) (replies : List Reply) : State :=
  { clock 90 with
    link := { State.reset.link with replies }
    reports := { State.reset.reports with state, window, nextSeq := BitVec.ofNat 8 window.length } }

/-- A frame of one byte on the wire since 0, at a run clock. -/
def sendingByte (now : Nat) : State :=
  { clock now with link := { State.reset.link with transmitter := some ⟨[0xA7], 0, false⟩ } }

theorem witness_LinkFrames :
    (let s := reports .active [report 0 (.notices [notice] 0) false, report 1 (.data 3 0 2) true] []
     s.held = false ∧ s.link.transmitter = none ∧ (∀ r, s.link.executing ≠ some ⟨r, .resetDue⟩) ∧
      s.link.replies = [] ∧ s.reports.state = .active ∧
      s.reports.window = [report 0 (.notices [notice] 0) false] ++ report 1 (.data 3 0 2) true :: [] ∧
      (report 1 (.data 3 0 2) true).due = true ∧
      (∀ other ∈ [report 0 (.notices [notice] 0) false], other.due = false) ∧
      (∀ other ∈ [report 0 (.notices [notice] 0) false] ++ [], other.seq ≠ (report 1 (.data 3 0 2) true).seq)) ∧
    (reports .active [] [⟨7, [0x01, 0], false⟩]).link.replies = [⟨7, [0x01, 0], false⟩] ∧
    ((reports .stalled [report 0 (.notices [] 1) false] []).link.replies = [] ∧
      (reports .stalled [report 0 (.notices [] 1) false] []).reports.state ≠ .active) ∧
    (∀ now ∈ [86, 87], (sendingByte now).held = false ∧
      (sendingByte now).link.transmitter = some ⟨[0xA7], 0, false⟩) ∧
    (⟨[0xA7], 0, false⟩ : TransmitFrame).endsReset = false ∧
    (∀ at_ ∈ [(0, 0), (9, 1), (79, 9), (86, 9)],
      (10 * 0 + at_.2) * 1000000 ≤ ((sendingByte at_.1).time.runClock - 0) * baud (sendingByte at_.1).link.rate ∧
      ((sendingByte at_.1).time.runClock - 0) * baud (sendingByte at_.1).link.rate < (10 * 0 + at_.2 + 1) * 1000000) ∧
    ((⟨[0xA7], 0, false⟩ : TransmitFrame).bytes[0]? = some 0xA7 ∧
      1 * 10 * 1000000 ≤ ((sendingByte 87).time.runClock - 0) * baud (sendingByte 87).link.rate) ∧
    ({ sendingByte 0 with held := true }.held = true ∧ State.reset.link.transmitter = none) ∧
    ((reports .active [report 0 (.notices [] 1) false] []).link.replies = [] ∧
      ∀ r ∈ (reports .active [report 0 (.notices [] 1) false] []).reports.window, r.due = false) ∧
    (after .linkFrameComplete resetFrame).link.executing = some ⟨⟨7, [0x03, 0x00]⟩, .resetDue⟩ := by
  refine ⟨⟨rfl, rfl, fun r h => ?_, rfl, rfl, rfl, rfl, by decide, by decide⟩, rfl, ⟨rfl, by decide⟩, by decide +kernel,
    rfl, by decide +kernel, by decide +kernel, ⟨rfl, rfl⟩, ⟨rfl, by decide⟩, by decide +kernel⟩
  cases (show (none : Option Executing) = some ⟨r, .resetDue⟩ from h)

theorem test_replies_go_before_reports :
    ((after .linkFrameStart (reports .active [report 0 (.notices [notice] 0) true] [⟨7, [0x01, 0], false⟩])).link.transmitter.map
      fun f => f.bytes.take 6) = some [0xA7, 2, 2, 7, 0x01, 0] := by decide +kernel

/-- Ten bit periods at 115,200 baud are 86.8 µs. -/
theorem test_one_byte_takes_87_us :
    (after .linkFrameComplete { clock 86 with link := { State.reset.link with
      transmitter := some ⟨[0xA7], 0, false⟩ } }).link.transmitter = some ⟨[0xA7], 0, false⟩ ∧
    (after .linkFrameComplete { clock 87 with link := { State.reset.link with
      transmitter := some ⟨[0xA7], 0, false⟩ } }).link.transmitter = none := by decide +kernel

/-- R138: A7h is 1010_0111b: low, then 1 1 1 0 0 1 0 1, then high, 8.68 µs each at 115,200 baud. -/
theorem test_levels_of_a_byte :
    [0, 9, 18, 27, 35, 44, 53, 61, 70, 79, 87].map (fun now => (sendingByte now).htxd) =
      [false, true, true, true, false, false, true, false, true, true, true] := by decide +kernel

/-! ### The report unit -/

/-- Reporting ACTIVE, with stream 3 subscribed and a record waiting in its queue, since 90. -/
def streaming (batch : Nat) : State :=
  ((reports .active [] []).withQueue 3 { State.reset.queue 3 with records := [record], offered := 1 }).withStream 3
    { subscribed := true, batch, hold := 0, holdStart := some 90 }

theorem witness_ReportFormation :
    ((streaming 1).held = false ∧ (streaming 1).reports.state = .active ∧ (streaming 1).reports.window.length < 8 ∧
      (streaming 1).reports.notices = [] ∧ (streaming 1).reports.noticeLoss = 0 ∧
      servingOrder (streaming 1).reports.lastServed = [0, 1, 2] ++ 3 :: [4, 5, 6, 7, 8, 9, 10, 11, 12] ∧
      (∀ m ∈ [(0 : QueueNo), 1, 2], (streaming 1).streamReady m = false) ∧ (streaming 1).streamReady 3 = true) ∧
    (after .armWindowExpiry armed).reports.notices ≠ [] ∧
    ((∀ n, (reports .active [] []).streamReady n = false) ∧ (reports .active [] []).reports.notices = [] ∧
      (reports .active [] []).reports.noticeLoss = 0) ∧
    (reports .silent [] []).reports.state ≠ .active ∧
    8 ≤ (reports .active (List.replicate 8 (report 0 (.notices [] 1) true)) []).reports.window.length := by
  decide +kernel

theorem test_formation_marks_the_record_in_flight :
    ((after .reportFormation (streaming 1)).queue 3).inFlight = 1 ∧
      (after .reportFormation (streaming 1)).reports.window = [report 0 (.data 3 1 0) true] := by decide +kernel

/-- After the formation of that report. -/
def formed : State := after .reportFormation (streaming 1)

theorem witness_Acknowledgement :
    formed.held = false ∧ formed.link.receiver = .hunt ∧ (∀ length ∈ [0, 250], (List.replicate length (0 : Byte)).length ≤ 250) ∧
    (∀ report ∈ formed.reports.window, report.seq ≠ 255) ∧
    formed.reports.window = [] ++ report 0 (.data 3 1 0) true :: [] ∧ (report 0 (.data 3 1 0) true).seq = 0 ∧
    (∀ n, olderCount n ([] ++ [report 0 (.data 3 1 0) true]) ≤ (formed.queue n).inFlight ∧
      (formed.queue n).inFlight ≤ (formed.queue n).records.length) := by decide +kernel

theorem test_ack_releases_the_record :
    ((afterAll ((frameBytes kindAck 0 []).map fun b => .byteReceived b true) formed).queue 3).acknowledged = 1 ∧
      (afterAll ((frameBytes kindAck 255 []).map fun b => .byteReceived b true) formed).reports.strays = 1 := by
  decide +kernel

/-- A formed report with the timer set to 90 and a retry count. -/
def waiting (retries : Nat) (timer : Nat) : State :=
  { reports .active [report 0 (.notices [notice] 0) false] [] with
    reports := { (reports .active [report 0 (.notices [notice] 0) false] []).reports with retries, timer := some timer } }

theorem witness_RetransmitTimeout :
    (∀ retries ∈ [2, 3], ∀ timer ∈ [90, 91], (waiting retries timer).held = false ∧
      (waiting retries timer).reports.timer = some timer ∧ (waiting retries timer).reports.state = .active) ∧
    (waiting 3 90).time.runClock = 90 ∧ (waiting 3 90).reports.retryLimit = 3 := by decide +kernel

theorem test_fourth_timeout_stalls :
    (after .retransmitTimeout (waiting 3 90)).reports.state = .stalled ∧
      (after .retransmitTimeout (waiting 2 90)).reports.retries = 3 := by decide +kernel

theorem formed_offers (payload : List Byte) : (given formed payload).Offers ⟨7, payload⟩ [] :=
  given_offers (s := formed) rfl rfl (Nat.zero_lt_succ 7) payload

theorem formed_sound (payload : List Byte) : (given formed payload).QueuesSound :=
  { queues := fun n => show (formed.queue n).Sound from ⟨by revert n; decide +kernel, by revert n; decide +kernel,
      by revert n; decide +kernel, by revert n; decide +kernel⟩
    streams := fun n => show (formed.stream n).Sound (formed.queue n) from ⟨by revert n; decide +kernel,
      by revert n; decide +kernel, by revert n; decide +kernel, by revert n; decide +kernel⟩
    pool := by show ((List.finRange 12).map fun m => (formed.queue (lineQueue m)).depth).sum ≤ 8192; decide +kernel
    merged := by show (formed.queue mergedQueue).depth = 4096; decide +kernel }

theorem witness_ReportingControl :
    (∀ timeout ∈ [9, 10, 2000, 2001, 65535], ∀ limit ∈ [0, 1, 8, 9, 255], timeout < 65536 ∧ limit < 256 ∧
      (given formed (0x60 :: (bigEndian 2 timeout ++ [BitVec.ofNat 8 limit]))).Offers
        ⟨7, 0x60 :: (bigEndian 2 timeout ++ [BitVec.ofNat 8 limit])⟩ []) ∧
    (∀ payload ∈ [[(0x61 : Byte)], [0x62]], (given formed payload).Offers ⟨7, payload⟩ []) ∧
    (given formed [0x62]).QueuesSound ∧
    (∃ report ∈ formed.reports.window, ∃ count loss, report.body = .data 3 count loss) ∧
    (∀ report ∈ formed.reports.window, ∀ count loss, report.body ≠ .data 4 count loss) := by
  have window : formed.reports.window = [report 0 (.data 3 1 0) true] := by decide +kernel
  refine ⟨fun timeout h limit h' => ⟨?_, ?_, formed_offers _⟩, fun payload _ => formed_offers payload,
    formed_sound _, ?_, ?_⟩
  · revert timeout; decide
  · revert limit; decide
  · rw [window]; exact ⟨_, .head _, 1, 0, rfl⟩
  · rw [window]
    intro other member count loss same
    rw [List.mem_singleton.1 member] at same
    cases same

theorem test_start_reports_in_silent :
    reply (after .startReports (given State.reset [0x60, 0xFF, 0xFF, 0xFF])) = some [0x60, 0, 0] ∧
      (after .startReports (given State.reset [0x60, 0xFF, 0xFF, 0xFF])).reports.state = .active := by decide +kernel

theorem test_stop_reports : (after .stopReports (given formed [0x61])).reports.state = .silent := by decide +kernel

theorem test_resync_returns_the_record :
    ((after .resync (given formed [0x62])).queue 3).inFlight = 0 ∧
      reply (after .resync (given formed [0x62])) = some [0x62, 0, 1] := by decide +kernel

theorem witness_StreamRequestsAndReadiness :
    (∀ payload ∈ [[0x63, 13, 1, 0, 0], [0x64, 13], [0x65, 13], [0x65, 254]],
      (given formed payload).Offers ⟨7, payload⟩ []) ∧
    12 < (13 : Byte).toNat ∧ (254 : Byte).toNat < 255 ∧ [(1 : Byte), 0, 0].length = 3 ∧
    (∀ batch ∈ [0, 1, 12, 13, 255], ∀ hold ∈ [0, 1000, 1001, 65535], batch < 256 ∧ hold < 65536 ∧
      (given formed (0x63 :: BitVec.ofNat 8 (3 : QueueNo).val :: BitVec.ofNat 8 batch :: bigEndian 2 hold)).Offers
        ⟨7, 0x63 :: BitVec.ofNat 8 (3 : QueueNo).val :: BitVec.ofNat 8 batch :: bigEndian 2 hold⟩ []) ∧
    (∀ payload ∈ [[0x64, BitVec.ofNat 8 (12 : QueueNo).val], [0x65, BitVec.ofNat 8 (3 : QueueNo).val], [0x65, 255]],
      (given formed payload).Offers ⟨7, payload⟩ []) := by
  refine ⟨fun payload _ => formed_offers payload, by decide, by decide, rfl,
    fun batch h hold h' => ⟨?_, ?_, formed_offers _⟩, fun payload _ => formed_offers payload⟩
  · revert batch; decide
  · revert hold; decide

theorem test_subscribe :
    ((after .subscribe (given State.reset [0x63, 12, 0xFF, 0xFF, 0xFF])).stream 12).subscribed = true ∧
      reply (after .subscribe (given State.reset [0x63, 12, 13, 0, 0])) = some [0x63, 4] := by decide +kernel

theorem test_unsubscribe : ((after .unsubscribe (given formed [0x64, 3])).stream 3).subscribed = false := by
  decide +kernel

theorem test_flush_marks_the_stream_with_news :
    reply (after .flush (given (streaming 12) [0x65, 255])) = some [0x65, 0, 1] ∧
      ((after .flush (given (streaming 12) [0x65, 3])).stream 3).flushPending = true := by decide +kernel

theorem test_hold_of_0_has_run_out_at_once :
    (streaming 12).streamReady 3 = true ∧ exec (.holdRunOut 3) (streaming 12) = .next (streaming 12) :=
  ⟨by decide +kernel, rfl⟩

/-! ### Invariants -/

/-- A part at work: an entry of a receiving line, a slot, an echoing line, and a report in flight with its record. -/
def working : State :=
  let s := ((formed.withPort 3 { runningPort .transmit 0 with sendQueue := [⟨1, 1⟩] }).withPort 4
    (runningPort .echo 0)).withPort 5 (runningPort .receive 0)
  { s with
    tags := [{ entry (some 50) (.fresh 2000) with key := ⟨.port 5, 1⟩, latest := some ⟨1, ⟨50, 0⟩, 5⟩ }]
    plan := [slot (some 50) (some 550)]
    pending := [.transmitSelection 3] }

theorem witness_StepKeepsQueues : working.QueuesSound ∧ step working = .next (after (.transmitSelection 3)
    { working with pending := [] }) :=
  ⟨{ queues := fun n => ⟨by revert n; decide +kernel, by revert n; decide +kernel, by revert n; decide +kernel,
       by revert n; decide +kernel⟩
     streams := fun n => ⟨by revert n; decide +kernel, by revert n; decide +kernel, by revert n; decide +kernel,
       by revert n; decide +kernel⟩
     pool := by decide +kernel
     merged := by decide +kernel }, rfl⟩

theorem witness_StepKeepsBounds : working.Bounded :=
  { intake := by decide +kernel, tags := by decide +kernel, slots := by decide +kernel
    sendQueues := by decide +kernel, notices := by decide +kernel, noticeLoss := by decide +kernel
    window := by decide +kernel, batches := by decide +kernel
    contents := fun report h => by
      revert h; revert report; exact List.forall_mem_cons.2 ⟨by decide, List.forall_mem_nil _⟩
    requests := by decide +kernel, cache := by decide +kernel, replies := by decide +kernel
    place := fun e h => by cases (show (none : Option Executing) = some e from h) }

theorem witness_StepKeepsLines : working.LinesSound := fun n =>
  ⟨by revert n; decide +kernel, by revert n; decide +kernel, by revert n; decide +kernel, by revert n; decide +kernel,
    by revert n; decide +kernel, by revert n; decide +kernel, by revert n; decide +kernel⟩

theorem witness_StepKeepsPlan : working.PlanSound :=
  { slots := fun s h => by
      rw [List.mem_singleton.1 (show s ∈ [slot (some 50) (some 550)] from h)]
      exact ⟨by decide, by decide, by decide, by decide +kernel, by decide +kernel⟩
    order := List.pairwise_singleton _ _ }

theorem witness_StepKeepsTags : working.LinesSound ∧ working.TagsSound :=
  ⟨witness_StepKeepsLines,
   { entries := fun e h => by
       rw [List.mem_singleton.1 (show e ∈ [{ entry (some 50) (.fresh 2000) with
         key := ⟨.port 5, 1⟩, latest := some ⟨1, ⟨50, 0⟩, 5⟩ }] from h)]
       exact ⟨by decide, by decide, by decide, by decide, by decide, by decide⟩
     order := List.pairwise_singleton _ _
     changes := fun _ => rfl
     monitored := fun line => ⟨_, rfl, fun e h key _ => by
       rw [List.mem_singleton.1 (show e ∈ [{ entry (some 50) (.fresh 2000) with
         key := ⟨.port 5, 1⟩, latest := some ⟨1, ⟨50, 0⟩, 5⟩ }] from h)] at key ⊢
       cases key
       decide +kernel⟩ }⟩

theorem witness_StepKeepsWindow : working.WindowSound :=
  ⟨by decide +kernel, by decide +kernel, by decide +kernel, by decide +kernel, by decide +kernel, by decide +kernel,
    by decide +kernel⟩

end Sys2Proof.Tests
end

section
/-! PROOFS. READ_TAG (R37, O32): how a key and a flag are read from a payload, what the rule answers, and the results
of Table 11-4. -/

namespace Sys2Proof.Proofs

-- One theorem after another: elaborating them all at once costs a thread and its stack for each.
set_option Elab.async false

open Sys2Proof.Machine Sys2Proof.Laws

/-! ### Keys and flags of a Tag Table request (section 11.2, R173) -/

/-- The line byte of a key is at most 12 (R21). -/
theorem keyLineOf_eq_none {b : Byte} (h : 12 < b.toNat) : keyLineOf b = none := by
  rw [keyLineOf, dif_neg (by omega), if_neg (by omega)]

/-- The tag of a key is at most 4095 (R21). -/
theorem tagOf_eq_none {n : Nat} (h : 4095 < n) : tagOf n = none := if_neg (by omega)

/-- A key whose line or tag is out of range is not read (R21). -/
theorem keyOf_eq_none {line : Byte} {number : Nat} (hn : number < 65536) (h : 12 < line.toNat ∨ 4095 < number)
    (post : List Byte) : keyOf (line :: (bigEndian 2 number ++ post)) 0 = none := by
  have htag : numberAt (line :: (bigEndian 2 number ++ post)) 1 2 = number :=
    numberAt_append [line] post 2 number hn
  rcases h with hline | hnumber
  · have hl : keyLineOf (byteAt (line :: (bigEndian 2 number ++ post)) 0) = none := keyLineOf_eq_none hline
    simp [keyOf, hl]
  · simp [keyOf, htag, tagOf_eq_none hnumber]

/-- A flag is read back from the byte that follows a key (Table 11-5). -/
theorem yesNoOf_after_keyBytes (key : Key) (flag : Bool) (post : List Byte) :
    yesNoOf (byteAt (keyBytes key ++ yesNoByte flag :: post) 3) = some flag :=
  (yesNoOf_iff _ _).2 rfl

/-! ### What READ_TAG's rule answers (R37) -/

/-- Taking a request into execution leaves the entry of every key. -/
@[simp] theorem startExecuting_entryOf (s : State) (r : Request) (key : Key) :
    (s.startExecuting r).entryOf key = s.entryOf key := rfl

theorem exec_readTag (s : State) : exec .readTag s = s.happen (State.carryOut .readTag ruleReadTag) := rfl

theorem requestCommand_readTag (fields : List Byte) : requestCommand (0x23 :: fields) = .readTag := rfl

section Rule

variable {s : State} {fields : List Byte} {key : Key} {clear : Bool}

theorem ruleReadTag_range (hkey : keyOf fields 0 = none) : ruleReadTag fields s = .refuse .range := by
  simp [ruleReadTag, hkey]

theorem ruleReadTag_absent (hkey : keyOf fields 0 = some key) (hclear : yesNoOf (byteAt fields 3) = some clear)
    (habsent : s.entryOf key = none) : ruleReadTag fields s = .refuse .absent := by
  simp [ruleReadTag, hkey, hclear, habsent]

theorem ruleReadTag_entry {e : Entry} (hkey : keyOf fields 0 = some key)
    (hclear : yesNoOf (byteAt fields 3) = some clear) (hentry : s.entryOf key = some e) :
    ruleReadTag fields s =
      .ok (if clear then s.withEntry { e with accepted := 0, early := 0, unchanged := 0 } else s)
        (entryResults e s.time.runClock) := by
  simp [ruleReadTag, hkey, hclear, hentry]

end Rule

/-! ### The results of READ_TAG (Table 11-4, R51) -/

/-- The byte of a route is the sum of its bits: 1 for LINE, 2 for MERGED (R173). -/
theorem routeByte_eq (line merged : Bool) :
    routeByte (line, merged) = (if line then (1 : Byte) else 0) + (if merged then 2 else 0) := by
  cases line <;> cases merged <;> rfl

/-- Freshness with its time in ms, state by state: remaining time rounded up, time spent stale rounded down (R51). -/
def freshnessField (now : Nat) : Freshness → List Byte
  | .none => 0 :: bigEndian 4 0
  | .idle => 1 :: bigEndian 4 0
  | .unseen expiry => 2 :: bigEndian 4 ((expiry - now + 999) / 1000)
  | .fresh expiry => 3 :: bigEndian 4 ((expiry - now + 999) / 1000)
  | .stale since => 4 :: bigEndian 4 (min 4294967295 ((now - since) / 1000))

theorem freshnessField_eq (now : Nat) (f : Freshness) :
    freshnessByte f :: bigEndian 4 (f.time now) = freshnessField now f := by
  cases f <;> rfl

/-- Latest with its present byte: 14 bytes of 0 where it is absent (R172). -/
def latestField : Option Latest → List Byte
  | some l => 1 :: (bigEndian 3 l.value.toNat ++ bigEndian 8 l.stamp.time ++
      [l.stamp.epoch, BitVec.ofNat 8 l.line.val])
  | none => List.replicate 14 0

theorem latestBytes_eq (latest : Option Latest) : latestBytes latest = latestField latest := by
  cases latest <;> rfl

/-- The results of READ_TAG field by field, in the order of Table 11-4. -/
theorem entryResults_eq (e : Entry) (now : Nat) :
    entryResults e now =
      entrySettingsBytes e.settings ++ bigEndian 4 e.accepted.toNat ++ bigEndian 4 e.early.toNat ++
        bigEndian 4 e.unchanged.toNat ++ [yesNoByte e.firstDue] ++ freshnessField now e.freshness ++
        [yesNoByte e.lastAccepted.isSome] ++ bigEndian 8 (e.lastAccepted.getD 0) ++ latestField e.latest := by
  simp [entryResults, presentField, ← freshnessField_eq, latestBytes_eq]

/-! ### READ_TAG as a request (R33, R37, R149) -/

section Request

variable {s : State} {r : Request} {rest : List Request}

/-- A READ_TAG request that its rule refuses is answered with the status, and nothing else changes. -/
theorem readTag_refused (h : s.OffersTag r rest) {fields : List Byte} (hp : r.payload = 0x23 :: fields)
    (hl : fields.length = 4) (status : Status)
    (hr : ruleReadTag fields (s.startExecuting r) = .refuse status) :
    exec .readTag s = .next { s with link := s.link.replied r status [] } := by
  rw [exec_readTag]
  exact tagRequest_refused h (by rw [hp, requestCommand_readTag]) (by rw [hp, List.length_cons, hl]; rfl) status
    (by rw [hp]; exact hr)

/-- A key out of range is refused with RANGE. -/
theorem readTag_range (h : s.OffersTag r rest) {line flag : Byte} {number : Nat} (hn : number < 65536)
    (hrange : 12 < line.toNat ∨ 4095 < number) (hp : r.payload = 0x23 :: line :: (bigEndian 2 number ++ [flag])) :
    exec .readTag s = .next { s with link := s.link.replied r .range [] } :=
  readTag_refused h hp (by simp) .range (ruleReadTag_range (keyOf_eq_none hn hrange [flag]))

variable {key : Key} {clear : Bool}

/-- A key that is not in the table is refused with ABSENT. -/
theorem readTag_absent (h : s.OffersTag r rest) (hp : r.payload = 0x23 :: (keyBytes key ++ [yesNoByte clear]))
    (habsent : s.entryOf key = none) :
    exec .readTag s = .next { s with link := s.link.replied r .absent [] } :=
  readTag_refused h hp (by simp [keyBytes]) .absent
    (ruleReadTag_absent (keyOf_keyBytes key _) (yesNoOf_after_keyBytes key clear [])
      ((startExecuting_entryOf s r key).trans habsent))

/-- The entry of the key is answered as it stood before the clear option sets its counters to 0. -/
theorem readTag_entry (h : s.OffersTag r rest) (hp : r.payload = 0x23 :: (keyBytes key ++ [yesNoByte clear]))
    {e : Entry} (hentry : s.entryOf key = some e) :
    exec .readTag s = .next
      { (if clear then s.withEntry { e with accepted := 0, early := 0, unchanged := 0 } else s) with
        link := s.link.replied r .ok (entryResults e s.time.runClock) } := by
  have hrule := ruleReadTag_entry (s := s.startExecuting r) (keyOf_keyBytes key [yesNoByte clear])
    (yesNoOf_after_keyBytes key clear []) ((startExecuting_entryOf s r key).trans hentry)
  rw [exec_readTag, tagRequest_ok h (by rw [hp, requestCommand_readTag]) (by rw [hp]; rfl) _ _
    (by rw [hp]; exact hrule) (by cases clear <;> rfl)]
  cases clear <;> rfl

end Request

/-- Settles O32, from the rule's three answers and the layout of the results. -/
theorem readTag : Obligations.ReadTag := by
  unfold Obligations.ReadTag
  refine ⟨fun t => ?_, fun s r rest clear h => ⟨fun line tag htag hrange hp => ?_, fun key hp => ⟨?_, ?_⟩⟩⟩
  · rw [← routeByte_eq]
    rfl
  · exact readTag_range h htag hrange hp
  · exact readTag_absent h hp
  · intro e hentry
    rw [readTag_entry h hp hentry, entryResults_eq]
    rfl

end Sys2Proof.Proofs
end

section
/-! PROOFS. READ_QUEUE (R77, O35): how a queue number is read from its byte, what the rule answers, and the results of
Table 11-4. -/

namespace Sys2Proof.Proofs

-- One theorem after another: elaborating them all at once costs a thread and its stack for each.
set_option Elab.async false

open Sys2Proof.Machine Sys2Proof.Laws

/-! ### The queue number of a request (section 11.2) -/

/-- The byte of a queue is at most 12. -/
theorem queueOf_eq_none {b : Byte} (h : 12 < b.toNat) : queueOf b = none := dif_neg (by omega)

/-- A queue is read back from the byte of its number. -/
theorem queueOf_ofNat (n : QueueNo) : queueOf (BitVec.ofNat 8 n.val) = some n := by
  have hbyte : (BitVec.ofNat 8 n.val).toNat = n.val := by
    rw [BitVec.toNat_ofNat, Nat.mod_eq_of_lt (by omega)]
  rw [queueOf, dif_pos (by omega)]
  exact congrArg some (Fin.ext hbyte)

/-! ### What READ_QUEUE's rule answers (R77) -/

/-- Taking a request into execution leaves every queue. -/
@[simp] theorem startExecuting_queue (s : State) (r : Request) (n : QueueNo) :
    (s.startExecuting r).queue n = s.queue n := rfl

theorem exec_readQueue (s : State) : exec .readQueue s = s.happen (State.carryOut .readQueue ruleReadQueue) := rfl

theorem requestCommand_readQueue (fields : List Byte) : requestCommand (0x31 :: fields) = .readQueue := rfl

/-- R77: a queue after the clear option is carried out, its three counts at 0. -/
def clearedQueue (q : CaptureQueue) : CaptureQueue := { q with offered := 0, acknowledged := 0, lostTotal := 0 }

section Rule

variable {s : State} {fields : List Byte} {n : QueueNo} {clear : Bool}

theorem ruleReadQueue_range (hqueue : queueOf (byteAt fields 0) = none) : ruleReadQueue fields s = .refuse .range := by
  simp [ruleReadQueue, hqueue]

theorem ruleReadQueue_held (hqueue : queueOf (byteAt fields 0) = some n)
    (hclear : yesNoOf (byteAt fields 1) = some true) (hheld : (s.queue n).records ≠ []) :
    ruleReadQueue fields s = .refuse .state := by
  simp [ruleReadQueue, hqueue, hclear, hheld]

theorem ruleReadQueue_answers (hqueue : queueOf (byteAt fields 0) = some n)
    (hclear : yesNoOf (byteAt fields 1) = some clear) (hempty : clear = true → (s.queue n).records = []) :
    ruleReadQueue fields s =
      .ok (if clear then s.withQueue n (clearedQueue (s.queue n)) else s) (queueResults (s.queue n)) := by
  cases clear with
  | false => simp [ruleReadQueue, hqueue, hclear]
  | true => simp [ruleReadQueue, hqueue, hclear, hempty rfl, clearedQueue]

end Rule

/-! ### The results of READ_QUEUE (Table 11-4) -/

/-- The code of a queue policy (Table 11-5). -/
theorem queuePolicyByte_eq (policy : QueuePolicy) : queuePolicyByte policy = if policy = .keepOld then 0 else 1 := by
  cases policy <;> rfl

/-- A number in a field of one byte. -/
theorem bigEndian_one (x : Nat) : bigEndian 1 x = [BitVec.ofNat 8 x] := by simp [bigEndian]

/-- The results of READ_QUEUE field by field, in the order of Table 11-4. -/
theorem queueResults_eq (q : CaptureQueue) :
    queueResults q =
      bigEndian 2 q.depth ++ [if q.policy = .keepOld then 0 else 1] ++ bigEndian 2 q.records.length ++
        [BitVec.ofNat 8 q.inFlight] ++ bigEndian 4 q.pendingLoss ++ bigEndian 4 q.offered.toNat ++
        bigEndian 4 q.acknowledged.toNat ++ bigEndian 4 q.lostTotal.toNat ++ [if q.armed then 1 else 0] := by
  rw [queueResults, queuePolicyByte_eq, bigEndian_one, yesNoByte]

/-! ### READ_QUEUE as a request (R77, R148, R149) -/

section Request

variable {s : State} {r : Request} {rest : List Request}

/-- A READ_QUEUE request that its rule refuses is answered with the status, and nothing else changes. -/
theorem readQueue_refused (h : s.Offers r rest) {number flag : Byte} (hp : r.payload = [0x31, number, flag])
    (status : Status) (hr : ruleReadQueue [number, flag] (s.startExecuting r) = .refuse status) :
    exec .readQueue s = .next { s with link := s.link.replied r status [] } := by
  rw [exec_readQueue]
  exact request_refused h (by rw [hp, requestCommand_readQueue]) (by rw [hp]; rfl) rfl status (by rw [hp]; exact hr)

/-- A queue number out of range is refused with RANGE. -/
theorem readQueue_range (h : s.Offers r rest) {number flag : Byte} (hrange : 12 < number.toNat)
    (hp : r.payload = [0x31, number, flag]) :
    exec .readQueue s = .next { s with link := s.link.replied r .range [] } :=
  readQueue_refused h hp .range (ruleReadQueue_range (queueOf_eq_none hrange))

variable {n : QueueNo} {clear : Bool}

/-- The clear option is refused with STATE while anything is held. -/
theorem readQueue_held (h : s.Offers r rest) (hp : r.payload = [0x31, BitVec.ofNat 8 n.val, yesNoByte true])
    (hheld : (s.queue n).records ≠ []) :
    exec .readQueue s = .next { s with link := s.link.replied r .state [] } :=
  readQueue_refused h hp .state (ruleReadQueue_held (queueOf_ofNat n) ((yesNoOf_iff _ _).2 rfl) hheld)

/-- The queue is answered as it stood before the clear option, asked for with nothing held, sets its counts to 0. -/
theorem readQueue_answers (h : s.Offers r rest) (hp : r.payload = [0x31, BitVec.ofNat 8 n.val, yesNoByte clear])
    (hempty : clear = true → (s.queue n).records = []) :
    exec .readQueue s = .next
      { (if clear then s.withQueue n (clearedQueue (s.queue n)) else s) with
        link := s.link.replied r .ok (queueResults (s.queue n)) } := by
  have hrule := ruleReadQueue_answers (s := s.startExecuting r) (fields := [BitVec.ofNat 8 n.val, yesNoByte clear])
    (queueOf_ofNat n) ((yesNoOf_iff _ _).2 rfl) hempty
  rw [exec_readQueue, request_ok h (by rw [hp, requestCommand_readQueue]) (by rw [hp]; rfl) rfl _ _
    (by rw [hp]; exact hrule) (by cases clear <;> rfl)]
  cases clear <;> rfl

end Request

/-- Settles O35, from the rule's three answers and the layout of the results. -/
theorem readQueue : Obligations.ReadQueue := by
  unfold Obligations.ReadQueue
  refine fun s r rest clear h => ⟨fun number hrange hp => readQueue_range h hrange hp, fun n hp => ?_⟩
  dsimp only
  rw [← queueResults_eq]
  refine ⟨?_, ?_, ?_⟩
  · rintro rfl
    exact readQueue_answers h hp nofun
  · rintro rfl hempty
    exact readQueue_answers h hp fun _ => hempty
  · rintro rfl hheld
    exact readQueue_held h hp hheld

end Sys2Proof.Proofs
end

section
/-! PROOFS. CANCEL_ARM (R87, O11) and READ_TIME (R92, O12): what a PULSE edge does in FREE, and the results of
READ_TIME with the remaining window rounded up to ms. -/

namespace Sys2Proof.Proofs

-- One theorem after another: elaborating them all at once costs a thread and its stack for each.
set_option Elab.async false

open Sys2Proof.Machine Sys2Proof.Laws

/-! ### PULSE edges in FREE (R89, R90) -/

section PulseEdge

variable {s : State}

theorem exec_pulseEdge (s : State) :
    exec .pulseEdge s = s.happen fun s => if s.time.edgeTaken then s.takeEdge else s.ignoreEdge := rfl

/-- In FREE an edge finds no arm value to load (R90). -/
theorem alignedLoad_free (h : s.time.arm = none) : s.alignedLoad = s := by simp [State.alignedLoad, h]

/-- In FREE a taken edge records itself, with its PULSE notice where these are on (R90, R91). -/
theorem takeEdge_free (h : s.time.arm = none) :
    s.takeEdge =
      { s.queueNoticeIf s.time.pulseNotices
          { body := .pulse false s.time.edgesSince, line := none, tag := 0, stamp := s.now } with
        time := { s.time with lastEdge := some s.time.runClock, edgesSince := 0 } } := by
  simp [State.takeEdge, alignedLoad_free h, h]

/-- In FREE an edge, taken or ignored, leaves line time, the epoch and the capture queues. -/
theorem pulseEdge_free_loads_nothing (h : s.time.arm = none) {t : State} (ht : exec .pulseEdge s = .next t) :
    t.time.lineTime = s.time.lineTime ∧ t.time.epoch = s.time.epoch ∧ t.queues = s.queues := by
  rw [exec_pulseEdge] at ht
  cases hheld : s.held with
  | true =>
    cases (happen_held _ hheld).symm.trans ht
    exact ⟨rfl, rfl, rfl⟩
  | false =>
    cases (happen_running _ hheld).symm.trans ht
    split
    next => simp [takeEdge_free h]
    next => exact ⟨rfl, rfl, rfl⟩

end PulseEdge

/-! ### The results of READ_TIME (Table 11-4) -/

/-- The arm value, 0 in FREE (R172). -/
def armValueField (t : TimeBase) : Nat := (t.arm.map Arm.value).getD 0

/-- The remaining window in ms, rounded up, and 0 in FREE (R92, R172). -/
def remainingWindow (t : TimeBase) : Nat := (t.arm.map fun arm => (arm.expiry - t.runClock + 999) / 1000).getD 0

/-- The results of READ_TIME field by field, in the order of Table 11-4. -/
theorem timeResults_eq (t : TimeBase) :
    timeResults t =
      bigEndian 8 t.runClock ++ bigEndian 8 t.lineTime ++ [t.epoch] ++ [if t.arm.isSome then 1 else 0] ++
        bigEndian 8 (armValueField t) ++ bigEndian 2 (remainingWindow t) ++ [if t.lastEdge.isSome then 1 else 0] ++
        bigEndian 8 (t.lastEdge.getD 0) ++ bigEndian 4 t.edgesSince ++ bigEndian 4 t.ignoredEdges.toNat ++
        [if t.pulseNotices then 1 else 0] := by
  simp [timeResults, presentField, yesNoByte, armValueField, remainingWindow]

section Window

variable {t : TimeBase} {arm : Arm}

theorem remainingWindow_armed (h : t.arm = some arm) :
    remainingWindow t = (arm.expiry - t.runClock + 999) / 1000 := by
  simp [remainingWindow, h]

/-- From the arm expiry on no window remains. -/
theorem remainingWindow_expired (h : t.arm = some arm) (hexpired : arm.expiry ≤ t.runClock) :
    remainingWindow t = 0 := by
  rw [remainingWindow_armed h]
  omega

/-- Before the arm expiry the window is the least number of ms that covers the time left. -/
theorem remainingWindow_covers (h : t.arm = some arm) (hrunning : t.runClock < arm.expiry) :
    1000 * (remainingWindow t - 1) < arm.expiry - t.runClock ∧
      arm.expiry - t.runClock ≤ 1000 * remainingWindow t := by
  rw [remainingWindow_armed h]
  omega

/-- With at most the longest window of R86 to go, the remaining window lies in its range. -/
theorem remainingWindow_range (h : t.arm = some arm) (hrunning : t.runClock < arm.expiry)
    (hlongest : arm.expiry ≤ t.runClock + 10000000) : 1 ≤ remainingWindow t ∧ remainingWindow t ≤ 10000 := by
  rw [remainingWindow_armed h]
  omega

end Window

/-! ### CANCEL_ARM and READ_TIME as requests (R87, R92, R148) -/

section Request

variable {s : State} {r : Request} {rest : List Request}

theorem exec_cancelArm (s : State) :
    exec .cancelArm s = s.happen (State.carryOut .cancelArm ruleCancelArm) := rfl

theorem exec_readTime (s : State) :
    exec .readTime s = s.happen (State.carryOut .readTime fun _ s => .ok s (timeResults s.time)) := rfl

/-- CANCEL_ARM returns the time base to FREE, and its reply says whether an arm was cancelled. -/
theorem cancelArm_answers (h : s.Offers r rest) (hp : r.payload = [0x42]) :
    exec .cancelArm s = .next { s with
      time := { s.time with arm := none }, link := s.link.replied r .ok [yesNoByte s.time.arm.isSome] } := by
  rw [exec_cancelArm, request_ok h (by rw [hp]; rfl) (by rw [hp]; rfl) rfl
    { s.startExecuting r with time := { s.time with arm := none } } [yesNoByte s.time.arm.isSome] rfl rfl]
  rfl

/-- READ_TIME answers the time base, and nothing but the host link changes. -/
theorem readTime_answers (h : s.Offers r rest) (hp : r.payload = [0x43]) :
    exec .readTime s = .next { s with link := s.link.replied r .ok (timeResults s.time) } := by
  rw [exec_readTime, request_ok h (by rw [hp]; rfl) (by rw [hp]; rfl) rfl (s.startExecuting r)
    (timeResults s.time) rfl rfl]
  rfl

end Request

/-- Settles O11: the reply by CANCEL_ARM's rule, and the edge after it finds the time base in FREE. -/
theorem cancelArm : Obligations.CancelArm := by
  unfold Obligations.CancelArm
  intro s r rest h hp
  have hcancel := cancelArm_answers h hp
  refine ⟨hcancel, fun t u ht hu => pulseEdge_free_loads_nothing ?_ hu⟩
  cases hcancel.symm.trans ht
  rfl

/-- Settles O12, with the arm value and the remaining window as the two numbers of the reply. -/
theorem readTime : Obligations.ReadTime := by
  unfold Obligations.ReadTime
  intro s r rest h hp
  refine ⟨armValueField s.time, remainingWindow s.time, ?_, fun hfree => ?_, fun arm harm => ⟨?_, ?_, ?_⟩⟩
  · rw [readTime_answers h hp, timeResults_eq]
  · simp [armValueField, remainingWindow, hfree]
  · simp [armValueField, harm]
  · exact remainingWindow_expired harm
  · intro hrunning
    obtain ⟨hleast, hcovers⟩ := remainingWindow_covers harm hrunning
    exact ⟨hleast, hcovers, remainingWindow_range harm hrunning⟩

end Sys2Proof.Proofs
end

section
/-! PROOFS. READ_SLOT (R113, O25): how a slot index is read from a payload, what the rule answers, and the results of
Table 11-4. -/

namespace Sys2Proof.Proofs

-- One theorem after another: elaborating them all at once costs a thread and its stack for each.
set_option Elab.async false

open Sys2Proof.Machine Sys2Proof.Laws

/-! ### The slot of a request (R94, section 11.2) -/

/-- A slot index is at most 383 (R94). -/
theorem slotOf_eq_none {i : Nat} (h : 383 < i) : slotOf i = none := dif_neg (by omega)

theorem slotOf_val (index : SlotNo) : slotOf index.val = some index := dif_pos index.isLt

/-- A field of two bytes at the head of the fields is read back. -/
theorem numberAt_head {i : Nat} (hi : i < 65536) (post : List Byte) : numberAt (bigEndian 2 i ++ post) 0 2 = i :=
  numberAt_append [] post 2 i hi

/-- An index within range is read back from the head of the fields. -/
theorem slotOf_head (index : SlotNo) (post : List Byte) :
    slotOf (numberAt (bigEndian 2 index.val ++ post) 0 2) = some index := by
  rw [numberAt_head (by omega), slotOf_val]

/-- The slot of an index is the first whose index has its number. -/
theorem slotAt_eq_find (s : State) (index : SlotNo) :
    s.slotAt index = s.plan.find? fun other => other.index.val == index.val := by
  have hsame : ∀ other : Slot, (other.index == index) = (other.index.val == index.val) := fun other => by
    rw [Bool.eq_iff_iff, beq_iff_eq, beq_iff_eq, Fin.ext_iff]
  simp only [State.slotAt, hsame]

/-- An index that no slot of the plan has holds no slot. -/
theorem slotAt_eq_none {s : State} {index : SlotNo} (h : ∀ slot ∈ s.plan, slot.index.val ≠ index.val) :
    s.slotAt index = none := by
  simpa [slotAt_eq_find] using h

/-- Taking a request into execution leaves the slot of every index. -/
@[simp] theorem startExecuting_slotAt (s : State) (r : Request) (index : SlotNo) :
    (s.startExecuting r).slotAt index = s.slotAt index := rfl

/-! ### What READ_SLOT's rule answers (R113) -/

theorem exec_readSlot (s : State) : exec .readSlot s = s.happen (State.carryOut .readSlot ruleReadSlot) := rfl

theorem requestCommand_readSlot (fields : List Byte) : requestCommand (0x54 :: fields) = .readSlot := rfl

/-- R113: a slot after the clear option is carried out, its three counters at 0. -/
def clearedSlot (slot : Slot) : Slot := { slot with sent := 0, misses := 0, skips := 0 }

section Rule

variable {s : State} {fields : List Byte} {index : SlotNo} {clear : Bool}

theorem ruleReadSlot_range (hindex : slotOf (numberAt fields 0 2) = none) :
    ruleReadSlot fields s = .refuse .range := by
  simp [ruleReadSlot, hindex]

theorem ruleReadSlot_absent (hindex : slotOf (numberAt fields 0 2) = some index)
    (hclear : yesNoOf (byteAt fields 2) = some clear) (habsent : s.slotAt index = none) :
    ruleReadSlot fields s = .refuse .absent := by
  simp [ruleReadSlot, hindex, hclear, habsent]

theorem ruleReadSlot_answers {slot : Slot} (hindex : slotOf (numberAt fields 0 2) = some index)
    (hclear : yesNoOf (byteAt fields 2) = some clear) (hslot : s.slotAt index = some slot) :
    ruleReadSlot fields s = .ok (if clear then s.withSlot (clearedSlot slot) else s) (slotResults slot) := by
  simp [ruleReadSlot, hindex, hclear, hslot, clearedSlot]

end Rule

/-! ### The results of READ_SLOT (Table 11-4) -/

/-- The code of a slot mode (Table 11-5). -/
theorem slotModeByte_eq (mode : SlotMode) :
    slotModeByte mode = match mode with | .always => (0 : Byte) | .onUpdate => 1 := by
  cases mode <;> rfl

/-- The settings of a slot field by field, the line first (section 11.2). -/
theorem slotSettingsBytes_eq (line : LineNo) (t : SlotSettings) :
    slotSettingsBytes line t =
      BitVec.ofNat 8 line.val :: (bigEndian 2 t.tag.toNat ++ bigEndian 3 t.value.toNat ++ bigEndian 2 t.period ++
        bigEndian 2 t.phase ++ [slotModeByte t.mode] ++ bigEndian 2 (t.limit.getD 0) ++
        [yesNoByte t.enabled, yesNoByte t.notifyMiss, yesNoByte t.notifyDone]) := by
  simp [slotSettingsBytes, optionalNumber]

/-- The results of READ_SLOT field by field, in the order of Table 11-4. -/
theorem slotResults_eq (slot : Slot) :
    slotResults slot =
      slotSettingsBytes slot.line slot.settings ++ [yesNoByte slot.updated] ++ [yesNoByte slot.pending.isSome] ++
        bigEndian 8 (slot.pending.getD 0) ++ [yesNoByte slot.nextDue.isSome] ++ bigEndian 8 (slot.nextDue.getD 0) ++
        bigEndian 2 (slot.remaining.getD 0) ++ bigEndian 4 slot.sent.toNat ++ bigEndian 4 slot.misses.toNat ++
        bigEndian 4 slot.skips.toNat := by
  simp [slotResults, presentField, optionalNumber]

/-! ### READ_SLOT as a request (R113, R148, R149) -/

section Request

variable {s : State} {r : Request} {rest : List Request}

/-- A READ_SLOT request that its rule refuses is answered with the status, and nothing else changes. -/
theorem readSlot_refused (h : s.Offers r rest) {i : Nat} {flag : Byte}
    (hp : r.payload = 0x54 :: (bigEndian 2 i ++ [flag])) (status : Status)
    (hr : ruleReadSlot (bigEndian 2 i ++ [flag]) (s.startExecuting r) = .refuse status) :
    exec .readSlot s = .next { s with link := s.link.replied r status [] } := by
  rw [exec_readSlot]
  exact request_refused h (by rw [hp, requestCommand_readSlot]) (by rw [hp]; rfl) rfl status (by rw [hp]; exact hr)

/-- An index out of range is refused with RANGE. -/
theorem readSlot_range (h : s.Offers r rest) {i : Nat} {flag : Byte} (hi : i < 65536) (hrange : 383 < i)
    (hp : r.payload = 0x54 :: (bigEndian 2 i ++ [flag])) :
    exec .readSlot s = .next { s with link := s.link.replied r .range [] } :=
  readSlot_refused h hp .range (ruleReadSlot_range (by rw [numberAt_head hi, slotOf_eq_none hrange]))

variable {index : SlotNo} {clear : Bool}

/-- An index that holds no slot is refused with ABSENT. -/
theorem readSlot_absent (h : s.Offers r rest)
    (hp : r.payload = 0x54 :: (bigEndian 2 index.val ++ [yesNoByte clear])) (habsent : s.slotAt index = none) :
    exec .readSlot s = .next { s with link := s.link.replied r .absent [] } :=
  readSlot_refused h hp .absent
    (ruleReadSlot_absent (slotOf_head index _) ((yesNoOf_iff _ _).2 rfl) habsent)

/-- The slot is answered as it stood before the clear option sets its counters to 0. -/
theorem readSlot_answers (h : s.Offers r rest)
    (hp : r.payload = 0x54 :: (bigEndian 2 index.val ++ [yesNoByte clear])) {slot : Slot}
    (hslot : s.slotAt index = some slot) :
    exec .readSlot s = .next
      { (if clear then s.withSlot (clearedSlot slot) else s) with
        link := s.link.replied r .ok (slotResults slot) } := by
  have hrule := ruleReadSlot_answers (s := s.startExecuting r) (fields := bigEndian 2 index.val ++ [yesNoByte clear])
    (slotOf_head index _) ((yesNoOf_iff _ _).2 rfl) hslot
  rw [exec_readSlot, request_ok h (by rw [hp, requestCommand_readSlot]) (by rw [hp]; rfl) rfl _ _
    (by rw [hp]; exact hrule) (by cases clear <;> rfl)]
  cases clear <;> rfl

end Request

/-- Settles O25, from the rule's three answers and the layout of the results. -/
theorem readSlot : Obligations.ReadSlot := by
  unfold Obligations.ReadSlot
  refine ⟨fun line t => ?_, fun s r rest i clear h hi hp => ⟨fun hrange => ?_, fun habsent hrange => ?_,
    fun slot hslot => ?_⟩⟩
  · rw [slotSettingsBytes_eq, slotModeByte_eq]
    rfl
  · exact readSlot_range h hi hrange hp
  · exact readSlot_absent (index := ⟨i, by omega⟩) h hp (slotAt_eq_none habsent)
  · obtain rfl : slot.index.val = i := by simpa using List.find?_some hslot
    rw [readSlot_answers h hp ((slotAt_eq_find s slot.index).trans hslot), slotResults_eq]
    rfl

end Sys2Proof.Proofs
end

section
/-! PROOFS. IDENTIFY (R150, O44): the part code, the revision and the capacities of Table 0-5 as the bytes of
Table 11-4, and the reply that carries them. -/

namespace Sys2Proof.Proofs

-- One theorem after another: elaborating them all at once costs a thread and its stack for each.
set_option Elab.async false

open Sys2Proof.Machine Sys2Proof.Laws

/-- The results of IDENTIFY in numbers, in the order of Table 11-4: every field of one byte is its own byte. -/
theorem identifyResults_eq :
    identifyResults =
      bigEndian 2 6412 ++ [1, 12, 16] ++ bigEndian 2 640 ++ bigEndian 2 8192 ++ bigEndian 2 4096 ++
        bigEndian 2 384 ++ [32, 64, 8, 12, 4, 4, 8, 250] := by
  simp only [identifyResults, bigEndian_one]
  rfl

theorem exec_identify (s : State) :
    exec .identify s = s.happen (State.carryOut .identify fun _ s => .ok s identifyResults) := rfl

theorem requestCommand_identify (fields : List Byte) : requestCommand (0x01 :: fields) = .identify := rfl

/-- IDENTIFY's results are the same in every state, and nothing but the host link changes. -/
theorem identify_answers {s : State} {r : Request} {rest : List Request} (h : s.Offers r rest)
    (hp : r.payload = [0x01]) :
    exec .identify s = .next { s with link := s.link.replied r .ok identifyResults } := by
  rw [exec_identify, request_ok h (by rw [hp, requestCommand_identify]) (by rw [hp]; rfl) rfl (s.startExecuting r)
    identifyResults rfl rfl]
  rfl

/-- Settles O44: the reply by IDENTIFY's rule, its results written out in numbers. -/
theorem identify : Obligations.Identify := by
  unfold Obligations.Identify
  intro s r rest h hp
  rw [identify_answers h hp, identifyResults_eq]

end Sys2Proof.Proofs
end

section
/-! PROOFS. ATTN (R171, O46): when it is asserted, that power-on and every reset deassert it, and its byte in the reply
to GET_STATUS. -/

namespace Sys2Proof.Proofs

-- One theorem after another: elaborating them all at once costs a thread and its stack for each.
set_option Elab.async false

open Sys2Proof.Machine Sys2Proof.Laws

/-! ### When ATTN is asserted (R171) -/

theorem attn_iff (s : State) :
    s.attn = true ↔ s.reports.state = .stalled ∨ ∃ n, (s.port n).state = .fault := by
  simp [State.attn]

theorem attn_eq_false {s : State} (hreports : s.reports.state ≠ .stalled) (hlines : ∀ n, (s.port n).state ≠ .fault) :
    s.attn = false := by
  rw [Bool.eq_false_iff, ne_eq, attn_iff]
  rintro (hstalled | ⟨n, hfault⟩)
  · exact hreports hstalled
  · exact hlines n hfault

/-! ### After power-on and the resets (R137, R152, R153) -/

theorem attn_reset : State.reset.attn = false :=
  attn_eq_false nofun fun n => by simp

@[simp] theorem port_fullReset (s : State) (n : LineNo) :
    s.fullReset.port n = { pair := (s.port n).release.pair } := by
  simp [State.port, State.fullReset]

@[simp] theorem port_trafficReset (s : State) (n : LineNo) :
    s.trafficReset.port n = (s.port n).afterTrafficReset := by
  simp [State.port, State.trafficReset]

theorem attn_fullReset (s : State) : s.fullReset.attn = false :=
  attn_eq_false nofun fun n => by simp

/-- R136: no line is in FAULT after RESET(TRAFFIC). -/
theorem afterTrafficReset_state_ne_fault (p : Port) : p.afterTrafficReset.state ≠ .fault := by
  by_cases hoff : p.state = .off <;> simp [Port.afterTrafficReset, hoff]

/-- R170: reporting is not STALLED after RESET(TRAFFIC). -/
theorem afterTrafficReset_state_ne_stalled (r : ReportUnit) : r.afterTrafficReset.state ≠ .stalled := by
  by_cases hstalled : r.state = .stalled <;> simp [ReportUnit.afterTrafficReset, hstalled]

theorem attn_trafficReset (s : State) : s.trafficReset.attn = false :=
  attn_eq_false (afterTrafficReset_state_ne_stalled s.reports) fun n => by
    rw [port_trafficReset]
    exact afterTrafficReset_state_ne_fault (s.port n)

/-! ### What power-on, the resets and GET_STATUS do (R137, R151 to R153) -/

theorem exec_powerOn (lrate : BitVec 2) (s : State) :
    exec (.powerOn lrate) s =
      .next { State.reset with link := { rate := rateOfPins lrate }, pending := s.pending } := rfl

theorem exec_rstnLow (s : State) :
    exec .rstnLow s =
      .next { State.reset with held := true, link := { rate := s.link.rate }, pending := s.pending } := rfl

theorem exec_resetTraffic (s : State) :
    exec .resetTraffic s = s.happen (State.carryOut .resetTraffic ruleResetTraffic) := rfl

theorem exec_getStatus (s : State) :
    exec .getStatus s = s.happen (State.carryOut .getStatus fun _ s => .ok s s.statusResults) := rfl

/-- R153: once the reset is due, RESET_FULL_TAKES_EFFECT carries it out. -/
theorem resetFullTakesEffect_due {s : State} {r : Request} (hrunning : s.held = false)
    (hdue : s.link.executing = some ⟨r, .resetDue⟩) : exec .resetFullTakesEffect s = .next s.fullReset := by
  have heffect : s.resetTakesEffectNow = true := by simp [State.resetTakesEffectNow, State.resetDue, hdue]
  calc exec .resetFullTakesEffect s
      = s.happen fun s => if s.resetTakesEffectNow then s.fullReset else s := rfl
    _ = .next s.fullReset := by rw [happen_running _ hrunning, if_pos heffect]

section Request

variable {s : State} {r : Request} {rest : List Request}

/-- R152: the scope TRAFFIC clears the traffic state and is answered OK. -/
theorem resetTraffic_answers (h : s.Offers r rest) (hp : r.payload = [0x03, 0x01]) :
    exec .resetTraffic s = .next { s.trafficReset with link := s.link.replied r .ok [] } := by
  rw [exec_resetTraffic, request_ok h (by rw [hp]; rfl) (by rw [hp]; rfl) rfl (s.startExecuting r).trafficReset []
    (by rw [hp]; rfl) rfl]
  rfl

/-- GET_STATUS answers the state of the part, and nothing but the host link changes. -/
theorem getStatus_answers (h : s.Offers r rest) (hp : r.payload = [0x02]) :
    exec .getStatus s = .next { s with link := s.link.replied r .ok s.statusResults } := by
  rw [exec_getStatus, request_ok h (by rw [hp]; rfl) (by rw [hp]; rfl) rfl (s.startExecuting r) s.statusResults rfl rfl]
  rfl

end Request

/-! ### ATTN in the reply to GET_STATUS (R151, Table 11-4) -/

/-- The fields of GET_STATUS's results before ATTN. -/
def statusBeforeAttn (s : State) : List Byte :=
  [resetCauseByte s.resetCause, reportingByte s.reports.state, BitVec.ofNat 8 s.reports.window.length,
    BitVec.ofNat 8 s.reports.notices.length] ++ bigEndian 2 s.reports.noticeLoss ++
    linkCounterBytes s.link.counters ++ bigEndian 4 s.reports.strays.toNat

/-- The fields of GET_STATUS's results after ATTN. -/
def statusAfterAttn (s : State) : List Byte :=
  ((List.finRange 12).map fun n => lineStateByte (s.port n).state) ++ bigEndian 2 s.freePool

theorem statusResults_eq (s : State) :
    s.statusResults = statusBeforeAttn s ++ (if s.attn then 1 else 0) :: statusAfterAttn s := by
  simp [State.statusResults, statusBeforeAttn, statusAfterAttn, yesNoByte]

theorem linkCounterBytes_length (c : LinkCounters) : (linkCounterBytes c).length = 32 := by
  simp [linkCounterBytes]

theorem statusBeforeAttn_length (s : State) : (statusBeforeAttn s).length = 42 := by
  simp [statusBeforeAttn, linkCounterBytes_length]

theorem statusAfterAttn_length (s : State) : (statusAfterAttn s).length = 14 := by
  simp [statusAfterAttn]

/-- R148: the reply to a request is the latest of the reply list. -/
theorem replied_getLast (l : HostLink) (r : Request) (status : Status) (results : List Byte) :
    (l.replied r status results).replies.getLast? = some (replyTo r status results) := by
  simp [HostLink.replied]

/-- Settles O46: ATTN by its definition, every reset by the lines and the reporting state it leaves, and the status
byte at its place behind the request kind, the status and the 42 bytes of the fields before it. -/
theorem attn : Obligations.Attn := by
  unfold Obligations.Attn
  refine ⟨attn_iff, fun s t lrate ht => ?powerOn, fun s t ht => ?rstnLow, fun s t r hrunning hdue ht => ?full,
    fun s t r rest h hp ht => ?traffic, fun s t r rest h hp ht => ?status⟩
  case powerOn =>
    cases (exec_powerOn lrate s).symm.trans ht
    exact attn_reset
  case rstnLow =>
    cases (exec_rstnLow s).symm.trans ht
    exact attn_reset
  case full =>
    cases (resetFullTakesEffect_due hrunning hdue).symm.trans ht
    exact attn_fullReset s
  case traffic =>
    cases (resetTraffic_answers h hp).symm.trans ht
    exact attn_trafficReset s
  case status =>
    cases (getStatus_answers h hp).symm.trans ht
    refine ⟨0x02 :: statusByte .ok :: statusBeforeAttn s, statusAfterAttn s, ?_, ?_, statusAfterAttn_length s⟩
    · simp [replied_getLast, replyTo, hp, statusResults_eq]
    · simp [statusBeforeAttn_length]

end Sys2Proof.Proofs
end

section
/-! PROOFS. What every command keeps, first part: the six invariants of StepKeepsQueues to StepKeepsWindow (O54 to O59)
together, as a relation between the states before and after, and the changes of the state that no invariant reads. -/

namespace Sys2Proof.Proofs

-- One theorem after another: elaborating them all at once costs a thread and its stack for each.
set_option Elab.async false

open Sys2Proof.Machine Sys2Proof.Laws

/-! ### The invariants kept together -/

/-- From `s` to `t` the invariants that speak of queues, reports and capacities are kept, and the queue of waiting
commands stays. -/
structure KeepsTraffic (s t : State) : Prop where
  queues : s.QueuesSound → t.QueuesSound
  bounds : s.Bounded → t.Bounded
  window : s.WindowSound → t.WindowSound
  pending : t.pending = s.pending

/-- From `s` to `t` all six invariants are kept, and the queue of waiting commands stays. -/
structure Keeps (s t : State) : Prop extends KeepsTraffic s t where
  lines : s.LinesSound → t.LinesSound
  plan : s.PlanSound → t.PlanSound
  tags : s.LinesSound → s.TagsSound → t.TagsSound

theorem KeepsTraffic.refl (s : State) : KeepsTraffic s s := ⟨id, id, id, rfl⟩

theorem KeepsTraffic.trans {s t u : State} (h : KeepsTraffic s t) (k : KeepsTraffic t u) : KeepsTraffic s u :=
  ⟨k.queues ∘ h.queues, k.bounds ∘ h.bounds, k.window ∘ h.window, k.pending.trans h.pending⟩

theorem Keeps.refl (s : State) : Keeps s s := ⟨.refl s, id, id, fun _ => id⟩

theorem Keeps.trans {s t u : State} (h : Keeps s t) (k : Keeps t u) : Keeps s u :=
  ⟨h.toKeepsTraffic.trans k.toKeepsTraffic, k.lines ∘ h.lines, k.plan ∘ h.plan,
    fun hl ht => k.tags (h.lines hl) (h.tags hl ht)⟩

theorem Keeps.ite {s t u : State} {c : Prop} [Decidable c] (ht : c → Keeps s t) (hu : ¬ c → Keeps s u) :
    Keeps s (if c then t else u) := by
  split
  next h => exact ht h
  next h => exact hu h

/-- What every change of a list's fold keeps, the fold keeps. -/
theorem KeepsTraffic.foldl {α : Type} {f : State → α → State} (h : ∀ s a, KeepsTraffic s (f s a)) (l : List α)
    (s : State) : KeepsTraffic s (l.foldl f s) := by
  induction l generalizing s with
  | nil => exact .refl s
  | cons a rest ih => exact (h s a).trans (ih (f s a))

theorem Keeps.foldl {α : Type} {f : State → α → State} (h : ∀ s a, Keeps s (f s a)) (l : List α) (s : State) :
    Keeps s (l.foldl f s) := by
  induction l generalizing s with
  | nil => exact .refl s
  | cons a rest ih => exact (h s a).trans (ih (f s a))

/-! ### The parts of Bounded -/

/-- The capacities of the host link. -/
structure LinkWithin (l : HostLink) : Prop where
  requests : l.requests.length ≤ 4
  cache : l.cache.length ≤ 4
  replies : l.replies.length ≤ 8
  place : ∀ e ∈ l.executing, e.hold = .atTagTable ∨ (∃ n, e.hold = .stop n) → l.replies.length ≤ 7

/-- R161: a report carries at most 12 notices or records. -/
def bodyWithin : ReportBody → Prop
  | .notices list _ => list.length ≤ 12
  | .data _ count _ => count ≤ 12

/-- The capacities of the report unit. -/
structure ReportsWithin (r : ReportUnit) : Prop where
  notices : r.notices.length ≤ 64
  noticeLoss : r.noticeLoss ≤ 65535
  window : r.window.length ≤ 8
  batches : ∀ n : QueueNo, r.streams[n].batch ≤ 12
  contents : ∀ report ∈ r.window, bodyWithin report.body

/-- The capacities outside the host link and the report unit. -/
structure StoresWithin (s : State) : Prop where
  intake : s.intake.length ≤ 16
  tags : s.tags.length ≤ 640
  slots : (s.plan.map Slot.index).Nodup
  sendQueues : ∀ n, (s.port n).sendQueue.length ≤ 32

theorem bounded_iff (s : State) : s.Bounded ↔ StoresWithin s ∧ LinkWithin s.link ∧ ReportsWithin s.reports := by
  constructor
  · intro h
    exact ⟨⟨h.intake, h.tags, h.slots.2, h.sendQueues⟩, ⟨h.requests, h.cache, h.replies, h.place⟩,
      ⟨h.notices, h.noticeLoss, h.window, h.batches, h.contents⟩⟩
  · rintro ⟨hs, hl, hr⟩
    have hlen : s.plan.length ≤ 384 := by simpa using hs.slots.length_le_card
    exact ⟨hs.intake, hs.tags, ⟨hlen, hs.slots⟩, hs.sendQueues, hr.notices, hr.noticeLoss, hr.window, hr.batches,
      hr.contents, hl.requests, hl.cache, hl.replies, hl.place⟩

/-! ### What the invariants read of a port -/

/-- A port that may take the place of another of its line: the same state and role, and sound if that one was. -/
structure Suits (p q : Port) : Prop where
  state : q.state = p.state
  role : q.config.role = p.config.role
  sound : p.Sound → q.Sound

theorem Suits.refl (p : Port) : Suits p p := ⟨rfl, rfl, id⟩

theorem Suits.servesPlan {p q : Port} (h : Suits p q) : q.servesPlan = p.servesPlan := by
  rw [Port.servesPlan, h.state, h.role, Port.servesPlan]

/-- A port suits in place of another where a stop runs at both or neither, and where both use the same of receiver,
transmitter and comparator. -/
theorem suits_of_use {p q : Port} (state : q.state = p.state := by rfl) (role : q.config.role = p.config.role := by rfl)
    (stop : q.stop.isSome = p.stop.isSome := by rfl)
    (receiver : q.receiver = .dormant ↔ p.receiver = .dormant := by rfl)
    (transmitter : q.transmitter = .dormant ↔ p.transmitter = .dormant := by rfl)
    (comparator : q.comparator = .inactive ↔ p.comparator = .inactive := by rfl) : Suits p q where
  state := state
  role := role
  sound h := by
    refine ⟨?_, ?_, ?_, ?_, ?_, ?_, ?_⟩
    · rw [state, role]; exact h.off
    · rw [state, role]; exact h.stopping
    · rw [state, role]; exact h.fault
    · rw [stop, state]; exact h.stop
    · rw [receiver, Port.receiverActive, state, role]; exact h.receiver
    · rw [transmitter, Port.driverActive, state, role]; exact h.transmitter
    · rw [comparator, Port.receiverActive, state, role]; exact h.comparator

/-- R41: whether a line is RUNNING with role RECEIVE, as TagsSound reads it. -/
def watchedPort (p : Port) : Bool := decide (p.config.role = .receive ∧ p.state = .running)

theorem watchedPort_role {p : Port} (h : p.config.role ≠ .receive) : watchedPort p = false := by
  simp [watchedPort, h]

theorem watchedPort_state {p : Port} (h : p.state ≠ .running) : watchedPort p = false := by
  simp [watchedPort, h]

theorem servesPlan_state {p : Port} (h : p.state ≠ .running) : p.servesPlan = false := by
  simp [Port.servesPlan, h]

theorem servesPlan_receive {p : Port} (h : p.config.role = .receive) : p.servesPlan = false := by
  simp [Port.servesPlan, h]

/-- R41: the lines whose exact entries are to be monitored. -/
def watched (s : State) (line : LineNo) : Bool := watchedPort (s.port line)

theorem watched_congr {s t : State} (h : ∀ n, Suits (s.port n) (t.port n)) : watched t = watched s := by
  funext n
  simp only [watched, watchedPort, (h n).role, (h n).state]

theorem canComeDue_congr {s t : State} (h : ∀ n, (t.port n).servesPlan = (s.port n).servesPlan) (line : LineNo)
    (settings : SlotSettings) : t.canComeDue line settings = s.canComeDue line settings := by
  simp [State.canComeDue, h]

/-! ### Frames of the invariants -/

theorem queue_congr {s t : State} (h : t.queues = s.queues) (n : QueueNo) : t.queue n = s.queue n := by
  simp [State.queue, h]

theorem stream_congr {s t : State} (h : t.reports.streams = s.reports.streams) (n : QueueNo) :
    t.stream n = s.stream n := by
  simp [State.stream, h]

theorem QueuesSound_of_eq {s t : State} (hq : ∀ n, t.queue n = s.queue n) (hs : ∀ n, t.stream n = s.stream n)
    (h : s.QueuesSound) : t.QueuesSound where
  queues n := by rw [hq]; exact h.queues n
  streams n := by rw [hq, hs]; exact h.streams n
  pool := by simpa only [hq] using h.pool
  merged := by rw [hq]; exact h.merged

theorem WindowSound_of_eq {s t : State} (hq : ∀ n, (t.queue n).inFlight = (s.queue n).inFlight)
    (hw : t.reports.window = s.reports.window) (hn : t.reports.nextSeq = s.reports.nextSeq)
    (hst : t.reports.state = s.reports.state) (ht : t.reports.timer = s.reports.timer)
    (hr : t.reports.retries = s.reports.retries) (hl : t.reports.retryLimit = s.reports.retryLimit)
    (ho : t.reports.timeout = s.reports.timeout) (h : s.WindowSound) : t.WindowSound where
  seqs := by rw [hw, hn]; exact h.seqs
  due := by rw [hw, hst]; exact h.due
  timer := by rw [hw, hst, ht]; exact h.timer
  retries := by rw [hr, hl]; exact h.retries
  limit := by rw [hl]; exact h.limit
  timeout := by rw [ho]; exact h.timeout
  inFlight n := by rw [hq, State.reportedOf, hw]; exact h.inFlight n

theorem PlanSound_of_eq {s t : State} (hp : t.plan = s.plan)
    (hs : ∀ n, (t.port n).servesPlan = (s.port n).servesPlan) (h : s.PlanSound) : t.PlanSound where
  slots slot hslot := by
    have hsound := h.slots slot (hp ▸ hslot)
    refine ⟨hsound.period, hsound.phase, hsound.limit, ?_, ?_⟩ <;> rw [canComeDue_congr hs]
    · exact hsound.due
    · exact hsound.pending
  order := by rw [hp]; exact h.order

theorem TagsSound_of_eq {s t : State} (ht : t.tags = s.tags) (hc : t.lineChanges = s.lineChanges)
    (hb : t.busy = none → s.busy = none) (hw : watched t = watched s) (h : s.TagsSound) : t.TagsSound where
  entries := by rw [ht]; exact h.entries
  order := by rw [ht]; exact h.order
  changes hnone := by rw [hc]; exact h.changes (hb hnone)
  monitored line := by
    obtain ⟨before, hchanges, hentries⟩ := h.monitored line
    refine ⟨before, ?_, by rw [ht]; exact hentries⟩
    rw [hc, show decide _ = watched s line from congrFun hw line]
    exact hchanges

/-- From `s` to `t` queues, reports and the queue of waiting commands stay, and what a capacity bounds does not grow
beyond it. -/
structure TrafficFrame (s t : State) : Prop where
  queues : t.queues = s.queues := by simp
  reports : t.reports = s.reports := by simp
  pending : t.pending = s.pending := by simp
  sendQueues : ∀ n, (t.port n).sendQueue.length ≤ max 32 (s.port n).sendQueue.length := by
    exact fun n => le_max_right _ _
  intake : t.intake.length ≤ max 16 s.intake.length := by simp
  tagCount : t.tags.length ≤ max 640 s.tags.length := by simp
  indices : (s.plan.map Slot.index).Nodup → (t.plan.map Slot.index).Nodup := by exact id
  link : LinkWithin s.link → LinkWithin t.link := by exact id

/-- The state `t` differs from `s` in nothing that an invariant reads, or by less of what a capacity bounds. -/
structure Frame (s t : State) : Prop extends TrafficFrame s t where
  ports : ∀ n, Suits (s.port n) (t.port n) := by exact fun n => Suits.refl _
  tags : t.tags = s.tags := by simp
  changes : t.lineChanges = s.lineChanges := by simp
  busy : t.busy = none → s.busy = none := by simp
  plan : t.plan = s.plan := by simp

theorem TrafficFrame.keeps {s t : State} (h : TrafficFrame s t) : KeepsTraffic s t where
  queues := QueuesSound_of_eq (queue_congr h.queues) (stream_congr (congrArg _ h.reports))
  bounds hb := by
    obtain ⟨hs, hl, hr⟩ := (bounded_iff s).1 hb
    refine (bounded_iff t).2 ⟨⟨?_, ?_, ?_, ?_⟩, h.link hl, h.reports ▸ hr⟩
    · exact h.intake.trans (by simpa using hs.intake)
    · exact h.tagCount.trans (by simpa using hs.tags)
    · exact h.indices hs.slots
    · exact fun n => (h.sendQueues n).trans (by simpa using hs.sendQueues n)
  window := by
    have hr := h.reports
    exact WindowSound_of_eq (fun n => by rw [queue_congr h.queues]) (by rw [hr]) (by rw [hr]) (by rw [hr])
      (by rw [hr]) (by rw [hr]) (by rw [hr]) (by rw [hr])
  pending := h.pending

theorem Frame.keeps {s t : State} (h : Frame s t) : Keeps s t where
  toKeepsTraffic := h.toTrafficFrame.keeps
  lines hl n := (h.ports n).sound (hl n)
  plan := PlanSound_of_eq h.plan fun n => (h.ports n).servesPlan
  tags _ := TagsSound_of_eq h.tags h.changes h.busy (watched_congr h.ports)

/-! ### Ports -/

/-- A port replaced by one with words to send as its queue may hold. -/
theorem trafficFrame_withPort {s : State} {n : LineNo} {p : Port}
    (hsend : p.sendQueue.length ≤ max 32 (s.port n).sendQueue.length) : TrafficFrame s (s.withPort n p) := by
  refine { sendQueues := fun m => ?_ }
  rw [port_withPort_eq]
  split
  next h => rw [h]; exact hsend
  next => exact le_max_right _ _

/-- A port replaced by one that suits, with words to send as its queue may hold. -/
theorem keeps_withPort {s : State} {n : LineNo} {p : Port} (hport : Suits (s.port n) p)
    (hsend : p.sendQueue.length ≤ max 32 (s.port n).sendQueue.length) : Keeps s (s.withPort n p) := by
  refine Frame.keeps { toTrafficFrame := trafficFrame_withPort hsend, ports := fun m => ?_ }
  rw [port_withPort_eq]
  split
  next h => rw [h]; exact hport
  next => exact .refl _

theorem keeps_mapPort {s : State} {n : LineNo} {f : Port → Port} (hport : Suits (s.port n) (f (s.port n)))
    (hsend : (f (s.port n)).sendQueue.length ≤ max 32 (s.port n).sendQueue.length) : Keeps s (s.mapPort n f) :=
  keeps_withPort hport hsend

theorem keeps_countLine (s : State) (n : LineNo) (f : LineCounters → LineCounters) : Keeps s (s.countLine n f) :=
  keeps_mapPort suits_of_use (le_max_right _ _)

/-! ### Notices (R155) -/

theorem queueNotice_reportsWithin {s : State} (x : Notice) (h : ReportsWithin s.reports) :
    ReportsWithin (s.queueNotice x).reports := by
  obtain ⟨hnotices, hloss⟩ := queueNotice_bounded s x ⟨h.notices, h.noticeLoss⟩
  refine ⟨hnotices, hloss, by simpa using h.window, fun n => ?_, by simpa using h.contents⟩
  have hstream : (s.queueNotice x).stream n = s.stream n := queueNotice_stream s x n
  exact (congrArg StreamState.batch hstream).trans_le (h.batches n)

theorem keeps_queueNotice (s : State) (x : Notice) : Keeps s (s.queueNotice x) where
  queues := QueuesSound_of_eq (by simp) (by simp)
  bounds hb := by
    obtain ⟨hs, hl, hr⟩ := (bounded_iff s).1 hb
    exact (bounded_iff _).2 ⟨⟨by simpa using hs.intake, by simpa using hs.tags, by simpa using hs.slots,
      by simpa using hs.sendQueues⟩, by simpa using hl, queueNotice_reportsWithin x hr⟩
  window := WindowSound_of_eq (by simp) (by simp) (by simp) (by simp) (by simp) (by simp) (by simp) (by simp)
  pending := by simp
  lines hl n := by simpa using hl n
  plan := PlanSound_of_eq (by simp) (by simp)
  tags _ := TagsSound_of_eq (by simp) (by simp) (by simp) (by funext; simp [watched])

theorem keeps_queueNoticeIf (s : State) (b : Bool) (x : Notice) : Keeps s (s.queueNoticeIf b x) := by
  cases b with
  | false => exact .refl s
  | true => exact keeps_queueNotice s x

/-! ### Writes of queues and streams (R58, R156) -/

/-- R156: news gained starts a hold, news lost ends it. -/
theorem holdStartAfter_isSome (q : CaptureQueue) (held : Option Nat) (now : Nat) :
    (holdStartAfter q held now).isSome = q.hasNews := by
  cases h : q.hasNews <;> simp [holdStartAfter, h]

theorem withStream_reportsWithin {s : State} (n : QueueNo) {t : StreamState} (ht : t.batch ≤ 12)
    (h : ReportsWithin s.reports) : ReportsWithin (s.withStream n t).reports := by
  refine ⟨h.notices, h.noticeLoss, h.window, fun m => ?_, h.contents⟩
  have hstream := stream_withStream_eq s n m t
  refine (congrArg StreamState.batch hstream).trans_le ?_
  split
  · exact ht
  · exact h.batches m

/-- A queue replaced by a sound one of the same depth, with the same records in flight. -/
theorem withQueue_sound {s : State} {n : QueueNo} {q : CaptureQueue} (hq : q.Sound)
    (hdepth : q.depth = (s.queue n).depth) (h : s.QueuesSound) : (s.withQueue n q).QueuesSound := by
  have hsame : ∀ m, ((s.withQueue n q).queue m).depth = (s.queue m).depth := fun m => by
    rw [queue_withQueue_eq]
    split
    next hm => rw [hm, hdepth]
    next => rfl
  refine ⟨fun m => ?_, fun m => ?_, by simpa only [hsame] using h.pool, by rw [hsame]; exact h.merged⟩
  · rw [queue_withQueue_eq]
    split
    · exact hq
    · exact h.queues m
  · by_cases hm : m = n
    · subst hm
      obtain ⟨hbatch, hhold, hflush, -⟩ := h.streams m
      rw [stream_withQueue, queue_withQueue]
      exact ⟨hbatch, hhold, hflush, holdStartAfter_isSome _ _ _⟩
    · rw [stream_withQueue_ne _ _ _ _ hm, queue_withQueue_ne _ _ _ _ hm]
      exact h.streams m

theorem withQueue_reportsWithin {s : State} (n : QueueNo) (q : CaptureQueue) (h : ReportsWithin s.reports) :
    ReportsWithin (s.withQueue n q).reports :=
  withStream_reportsWithin (s := { s with queues := s.queues.set n.val q n.isLt }) n (h.batches n) h

/-- A write of a queue keeps every capacity. -/
theorem withQueue_bounded {s : State} (n : QueueNo) (q : CaptureQueue) (h : s.Bounded) :
    (s.withQueue n q).Bounded := by
  obtain ⟨hs, hl, hr⟩ := (bounded_iff s).1 h
  exact (bounded_iff _).2 ⟨⟨hs.intake, hs.tags, hs.slots, hs.sendQueues⟩, hl, withQueue_reportsWithin n q hr⟩

/-- A write of a queue that keeps its records in flight keeps the window. -/
theorem withQueue_window {s : State} {n : QueueNo} {q : CaptureQueue} (hf : q.inFlight = (s.queue n).inFlight)
    (h : s.WindowSound) : (s.withQueue n q).WindowSound := by
  refine WindowSound_of_eq (s := s) (fun m => ?_) rfl rfl rfl rfl rfl rfl rfl h
  rw [queue_withQueue_eq]
  split
  next hm => rw [hm, hf]
  next => rfl

theorem keeps_withQueue {s : State} {n : QueueNo} {q : CaptureQueue} (hq : (s.queue n).Sound → q.Sound)
    (hdepth : q.depth = (s.queue n).depth) (hf : q.inFlight = (s.queue n).inFlight) : Keeps s (s.withQueue n q) where
  queues h := withQueue_sound (hq (h.queues n)) hdepth h
  bounds := withQueue_bounded n q
  window := withQueue_window hf
  pending := rfl
  lines h := h
  plan := PlanSound_of_eq rfl fun _ => rfl
  tags _ := TagsSound_of_eq rfl rfl id rfl

/-- A write of a stream's settings that fits its queue. -/
theorem keeps_withStream {s : State} {n : QueueNo} {t : StreamState}
    (ht : (s.stream n).Sound (s.queue n) → t.Sound (s.queue n)) (hb : (s.stream n).batch ≤ 12 → t.batch ≤ 12) :
    Keeps s (s.withStream n t) where
  queues h := by
    refine ⟨h.queues, fun m => ?_, h.pool, h.merged⟩
    rw [stream_withStream_eq, queue_withStream]
    split
    next hm => rw [hm]; exact ht (h.streams n)
    next => exact h.streams m
  bounds h := by
    obtain ⟨hs, hl, hr⟩ := (bounded_iff s).1 h
    exact (bounded_iff _).2 ⟨⟨hs.intake, hs.tags, hs.slots, hs.sendQueues⟩, hl,
      withStream_reportsWithin n (hb (hr.batches n)) hr⟩
  window := WindowSound_of_eq (fun _ => rfl) rfl rfl rfl rfl rfl rfl rfl
  pending := rfl
  lines h := h
  plan := PlanSound_of_eq rfl fun _ => rfl
  tags _ := TagsSound_of_eq rfl rfl id rfl

/-! ### Offers (R63 to R67) -/

theorem offer_sound {q : CaptureQueue} (r : CaptureRecord) (h : q.Sound) : (q.offer r).Sound := by
  obtain ⟨haccounted, hfits, hrun, hloss⟩ := h
  rcases Nat.lt_or_ge q.records.length q.depth with hroom | hfull
  · rw [offer_room q r hroom]
    refine ⟨?_, by simpa using hroom, by simpa using Nat.le_succ_of_le hrun, hloss⟩
    simp only [haccounted, List.length_append, List.length_singleton, BitVec.ofNat_add,
      show BitVec.ofNat 32 1 = 1 from rfl]
    ring
  · have hlost : q.offered + 1 = BitVec.ofNat 32 q.records.length + q.acknowledged + (q.lostTotal + 1) := by
      rw [haccounted]; ring
    cases hp : q.policy with
    | keepOld =>
      rw [offer_keepOld q r hfull hp]
      exact ⟨hlost, hfits, hrun, Nat.min_le_left _ _⟩
    | keepNew =>
      rcases Nat.lt_or_ge q.inFlight q.records.length with hw | hw
      · rw [offer_keepNew q r hfull hp hw]
        have hlen : (q.records.eraseIdx q.inFlight ++ [r]).length = q.records.length := by
          rw [List.length_append, List.length_eraseIdx_of_lt hw, List.length_singleton]
          omega
        exact ⟨by rw [hlen]; exact hlost, by rw [hlen]; exact hfits, by rw [hlen]; exact hrun, Nat.min_le_left _ _⟩
      · rw [offer_keepNew_inFlight q r hfull hp hw]
        exact ⟨hlost, hfits, hrun, Nat.min_le_left _ _⟩

theorem keeps_offer (s : State) (n : QueueNo) (r : CaptureRecord) : Keeps s (s.offer n r) :=
  (keeps_withQueue (offer_sound r) (by simp) (by simp)).trans (keeps_queueNoticeIf _ _ _)

theorem keeps_offerStartMarks (s : State) (line : LineNo) (stamps : List Stamp) :
    Keeps s (s.offerStartMarks line stamps) :=
  Keeps.foldl (fun s _ => keeps_offer s _ _) stamps s

theorem keeps_offerLoadMark (reason : MarkReason) (stamp : Stamp) (s : State) (n : QueueNo) :
    Keeps s (s.offerLoadMark reason stamp n) := by
  rcases offerLoadMark_cases s reason stamp n with h | h <;> rw [h]
  · exact .refl s
  · exact keeps_offer s _ _

theorem keeps_time (s : State) (time : TimeBase) : Keeps s { s with time } := Frame.keeps {}

theorem keeps_load (s : State) (value : Nat) (reason : MarkReason) : Keeps s (s.load value reason) :=
  (keeps_time s { s.time with lineTime := value, epoch := s.time.epoch + 1 }).trans
    (Keeps.foldl (keeps_offerLoadMark reason _) _ _)

/-! ### The arrival intake (R16, R17, R62) -/

theorem keeps_placeStartMark (s : State) (n : LineNo) (stamp : Stamp) : Keeps s (s.placeStartMark n stamp) := by
  rcases placeStartMark_cases s n stamp with ⟨i, h⟩ | ⟨busy, hbusy, h⟩ | h <;> rw [h]
  · exact Frame.keeps {}
  · exact Frame.keeps {}
  · exact keeps_offer s _ _

theorem keeps_placeStartMarks (s : State) (n : LineNo) (stamps : List Stamp) : Keeps s (s.placeStartMarks n stamps) :=
  Keeps.foldl (fun s stamp => keeps_placeStartMark s n stamp) stamps s

theorem keeps_offerItem (s : State) (item : Item) : Keeps s (s.offerItem item) := by
  have hentered : Keeps s { s with intake := (enterIntake s.time.epoch item s.intake).take 16 } :=
    Frame.keeps { intake := by simp }
  simp only [State.offerItem]
  split
  · exact hentered
  · exact (hentered.trans (keeps_countLine _ _ _)).trans (keeps_placeStartMarks _ _ _)

end Sys2Proof.Proofs
end

section
/-! PROOFS. What every command keeps, second part: the request executor, the receiver and the echo comparator, the
transmitter and the plan. -/

namespace Sys2Proof.Proofs

-- One theorem after another: elaborating them all at once costs a thread and its stack for each.
set_option Elab.async false

open Sys2Proof.Machine Sys2Proof.Laws

/-! ### The host link and the executor (R143 to R149) -/

/-- A change of the host link alone, within its capacities. -/
theorem keeps_link {s : State} {link : HostLink} (h : LinkWithin s.link → LinkWithin link) :
    Keeps s { s with link } :=
  Frame.keeps { link := h }

/-- R148: where the executor holds a request that is to be answered, the reply list has a place for its reply. -/
theorem LinkWithin.room {l : HostLink} (h : LinkWithin l) {e : Executing} (he : l.executing = some e)
    (hhold : e.hold = .atTagTable ∨ ∃ n, e.hold = .stop n) : l.replies.length ≤ 7 :=
  h.place e he hhold

theorem answered_within {s : State} (r : Request) (status : Status) (results : List Byte) (h : LinkWithin s.link)
    (hroom : s.link.replies.length ≤ 7) : LinkWithin (s.answered r status results).link := by
  have hcache := h.cache
  rw [answered_link]
  refine ⟨h.requests, ?_, by simpa using Nat.lt_succ_of_le hroom, nofun⟩
  simp only [List.length_drop, List.length_append, List.length_singleton]
  omega

theorem keeps_answered {s : State} (r : Request) (status : Status) (results : List Byte)
    (hroom : LinkWithin s.link → s.link.replies.length ≤ 7) : Keeps s (s.answered r status results) :=
  Frame.keeps { link := fun h => answered_within r status results h (hroom h) }

/-- R153: the reply to a RESET(FULL) finds the same place, and the hold it leaves needs none. -/
theorem keeps_answeredAndHeld {s : State} (r : Request) (hroom : LinkWithin s.link → s.link.replies.length ≤ 7) :
    Keeps s (s.answeredAndHeld r) := by
  refine keeps_link (link := (s.answeredAndHeld r).link) fun h => ?_
  have hanswered := answered_within r .ok [] h (hroom h)
  refine ⟨hanswered.requests, hanswered.cache, by simpa [State.answeredAndHeld] using Nat.lt_succ_of_le (hroom h), ?_⟩
  simp [State.answeredAndHeld]

/-- What a row's rule answers keeps the invariants and leaves the host link to the executor. -/
def AnswerKeeps (s : State) : Answer → Prop
  | .refuse _ => True
  | .ok t _ | .holdForStop t _ | .holdForReset t => Keeps s t ∧ t.link = s.link

/-- R148: a row finds its request in execution, or takes it where the reply list has a place. -/
theorem startExecuting_within {s : State} {command : Instr} {r : Request} (hr : s.requestFor command = some r)
    (h : LinkWithin s.link) : LinkWithin (s.startExecuting r).link := by
  have htail : s.link.requests.tail.length ≤ 4 := by
    have := h.requests
    rw [List.length_tail]
    omega
  have hrequests : (s.startExecuting r).link.requests.length ≤ 4 := by
    simp only [State.startExecuting]
    split
    · exact htail
    · exact h.requests
  refine ⟨hrequests, h.cache, h.replies, fun e he _ => ?_⟩
  rw [State.requestFor] at hr
  split at hr
  next held hheld =>
    split at hr
    next hwaits => exact h.room hheld (.inl hwaits.1)
    next => cases hr
  next =>
    split at hr
    next htake =>
      have hlisted : s.link.replies.length < 8 := by
        simp only [State.mayTakeRequest, Bool.and_eq_true, Config.listedReplies] at htake
        exact of_decide_eq_true htake.2
      exact Nat.le_of_lt_succ hlisted
    next => cases hr

theorem keeps_startExecuting {s : State} {command : Instr} {r : Request} (hr : s.requestFor command = some r) :
    Keeps s (s.startExecuting r) :=
  Frame.keeps { link := startExecuting_within hr }

theorem startExecuting_room {s : State} {r : Request} (h : LinkWithin (s.startExecuting r).link) :
    (s.startExecuting r).link.replies.length ≤ 7 :=
  h.room rfl (.inl rfl)

theorem keeps_conclude {s : State} {r : Request} {answer : Answer}
    (h : AnswerKeeps (s.startExecuting r) answer) :
    Keeps (s.startExecuting r) ((s.startExecuting r).conclude r answer) := by
  cases answer with
  | refuse status => exact keeps_answered r status [] startExecuting_room
  | ok t results =>
    obtain ⟨hkeeps, hlink⟩ := h
    exact hkeeps.trans (keeps_answered r .ok results (by rw [hlink]; exact startExecuting_room))
  | holdForStop t n =>
    obtain ⟨hkeeps, hlink⟩ := h
    refine hkeeps.trans (keeps_link fun ht => ⟨ht.requests, ht.cache, ht.replies, fun _ _ _ => ?_⟩)
    rw [hlink] at ht ⊢
    exact startExecuting_room ht
  | holdForReset t =>
    obtain ⟨hkeeps, hlink⟩ := h
    have hroom : LinkWithin t.link → t.link.replies.length ≤ 7 := by rw [hlink]; exact startExecuting_room
    exact hkeeps.trans (keeps_answeredAndHeld r hroom)

/-- R148: a row of the executor keeps what its rule keeps. -/
theorem keeps_carryOut {command : Instr} {rule : List Byte → State → Answer}
    (h : ∀ fields s, (isTagRequest command = true → s.tagTableFree = true) → AnswerKeeps s (rule fields s))
    (s : State) : Keeps s (s.carryOut command rule) := by
  rw [State.carryOut]
  split
  next => exact .refl s
  next r hr =>
    refine (keeps_startExecuting hr).trans (.ite (fun _ => keeps_answered r .format [] startExecuting_room)
      fun _ => .ite (fun _ => .refl _) fun hfree => keeps_conclude (h _ _ fun htag => ?_))
    simpa [htag] using hfree

theorem keeps_countLink (s : State) (f : LinkCounters → LinkCounters) : Keeps s (s.countLink f) :=
  Frame.keeps { link := fun h => ⟨h.requests, h.cache, h.replies, h.place⟩ }

theorem keeps_withReceiver (s : State) (r : FrameReceiver) : Keeps s (s.withReceiver r) :=
  Frame.keeps { link := fun h => ⟨h.requests, h.cache, h.replies, h.place⟩ }

theorem keeps_listOrDrop (s : State) (reply : Reply) : Keeps s (s.listOrDrop reply) := by
  rw [State.listOrDrop]
  refine .ite (fun hroom => keeps_link fun h => ⟨h.requests, h.cache, ?_, fun _ _ _ => ?_⟩)
    fun _ => keeps_countLink s _
  all_goals
    simp only [Config.listedReplies] at hroom
    simp only [List.length_append, List.length_singleton]
    omega

theorem keeps_requestFrame (s : State) (r : Request) : Keeps s (s.requestFrame r) := by
  rw [State.requestFrame]
  split
  next => exact (keeps_countLink s _).trans (keeps_listOrDrop _ _)
  next =>
    refine .ite (fun _ => keeps_countLink s _) fun _ => .ite (fun hroom => keeps_link fun h => ?_)
      fun _ => (keeps_countLink s _).trans (keeps_listOrDrop _ _)
    exact ⟨by simpa [Config.waitingRequests] using hroom, h.cache, h.replies, h.place⟩

/-! ### Stops and faults (R121, R122, R133) -/

/-- A port after its stop has ended in a final state. -/
def stopped (final : LineState) (p : Port) : Port := { p with state := final, stop := none }

/-- The end of a stop is the end of the line's stop, and the reply that it held back, where it held one. -/
theorem stopEnded_cases (s : State) (n : LineNo) (final : LineState) :
    s.stopEnded n final = s.mapPort n (stopped final) ∨
      ∃ e, s.link.executing = some e ∧ e.hold = .stop n ∧ ∃ results, s.stopEnded n final =
        (s.mapPort n (stopped final)).answered e.request .ok results := by
  simp only [State.stopEnded]
  split
  next e he =>
    split
    next hhold => exact .inr ⟨e, he, hhold, _, rfl⟩
    next => exact .inl rfl
  next => exact .inl rfl

/-- The end of a stop after a line's port was made another: what is left of the invariants is that of the port. -/
theorem keeps_stopEnded_of {s t : State} {n : LineNo} {final : LineState}
    (h : Keeps s (t.mapPort n (stopped final))) : Keeps s (t.stopEnded n final) := by
  rcases stopEnded_cases t n final with hended | ⟨e, he, hhold, results, hended⟩ <;> rw [hended]
  · exact h
  · exact h.trans (keeps_answered _ _ _ fun hl => LinkWithin.room (e := e) hl he (.inr ⟨n, hhold⟩))

theorem sound_fault {p : Port} (hrole : p.config.role = .echo) : (stopped .fault p.release).Sound := by
  constructor <;> simp [stopped, Port.release, Port.receiverActive, Port.driverActive, hrole]

theorem sound_ready {p : Port} (hrole : p.config.role ≠ .off) : (stopped .ready p.release).Sound := by
  constructor <;> simp [stopped, Port.release, Port.receiverActive, Port.driverActive, hrole]

/-- R115: a comparator in use is that of an ECHO line. -/
theorem echo_of_comparator {p : Port} (h : p.Sound) (hc : p.comparator ≠ .inactive) : p.config.role = .echo := by
  have huse := mt h.comparator.2 hc
  simp only [Bool.not_eq_false, Bool.and_eq_true, beq_iff_eq] at huse
  exact huse.2

theorem mapPort_mapPort (s : State) (n : LineNo) (f g : Port → Port) :
    (s.mapPort n f).mapPort n g = s.mapPort n fun p => g (f p) := by
  simp [State.mapPort, State.withPort, State.port]

theorem queueNotice_mapPort (s : State) (n : LineNo) (f : Port → Port) (x : Notice) :
    (s.queueNotice x).mapPort n f = (s.mapPort n f).queueNotice x := by
  rcases Nat.lt_or_ge s.reports.notices.length 64 with h | h
  · rw [queueNotice_room s x h, queueNotice_room (s.mapPort n f) x h]
    rfl
  · rw [queueNotice_full s x h, queueNotice_full (s.mapPort n f) x h]
    rfl

theorem watched_mapPort {s : State} {n : LineNo} {f : Port → Port}
    (h : watchedPort (f (s.port n)) = watchedPort (s.port n)) : watched (s.mapPort n f) = watched s := by
  funext m
  rw [watched, port_mapPort_eq]
  split
  next hm => rw [h, hm, watched]
  next => rfl

/-- R97: the slots of a stopped line neither come due nor wait. -/
theorem stopSlots_sound {s t : State} {n : LineNo} (hplan : t.plan = (s.stopSlots n).plan)
    (hports : ∀ m, m ≠ n → t.port m = s.port m) (h : s.PlanSound) : t.PlanSound where
  slots slot hslot := by
    rw [hplan] at hslot
    obtain ⟨old, hold, rfl⟩ := List.mem_map.1 hslot
    have hsound := h.slots old hold
    split
    next => exact ⟨hsound.period, hsound.phase, hsound.limit, nofun, nofun⟩
    next hline =>
      have hcan : t.canComeDue old.line old.settings = s.canComeDue old.line old.settings := by
        simp [State.canComeDue, hports _ hline]
      exact ⟨hsound.period, hsound.phase, hsound.limit, by rw [hcan]; exact hsound.due,
        by rw [hcan]; exact hsound.pending⟩
  order := by
    rw [hplan]
    refine List.pairwise_map.2 (h.order.imp fun {a b} hab => ?_)
    split <;> split <;> exact hab

theorem stopSlots_indices (s : State) (n : LineNo) :
    (s.stopSlots n).plan.map Slot.index = s.plan.map Slot.index := by
  simp only [State.stopSlots, List.map_map]
  refine List.map_congr_left fun slot _ => ?_
  simp only [Function.comp_apply]
  split <;> rfl

/-- A line that stops: its port changed, its slots stopped. -/
theorem keeps_lineStops {s : State} {n : LineNo} {f : Port → Port}
    (hsend : (f (s.port n)).sendQueue.length ≤ max 32 (s.port n).sendQueue.length)
    (hsound : (s.port n).Sound → (f (s.port n)).Sound)
    (hwatched : (s.port n).Sound → watchedPort (f (s.port n)) = watchedPort (s.port n)) :
    Keeps s ((s.mapPort n f).stopSlots n) where
  toKeepsTraffic := TrafficFrame.keeps
    { trafficFrame_withPort hsend with indices := by rw [stopSlots_indices]; exact id }
  lines hl m := by
    rw [stopSlots_port, port_mapPort_eq]
    split
    · exact hsound (hl n)
    · exact hl m
  plan := stopSlots_sound rfl fun m hm => by simp [port_mapPort_eq, hm]
  tags hl := TagsSound_of_eq rfl rfl id (watched_mapPort (hwatched (hl n)))

/-- R121: the entry to FAULT of a line whose comparator is in use. -/
theorem keeps_enterFault {s : State} {n : LineNo} (judgement : Judgement) (tag : Tag) (stamp : Stamp)
    (hc : (s.port n).comparator ≠ .inactive) : Keeps s (s.enterFault n judgement tag stamp) := by
  have hrole : (s.port n).Sound → (s.port n).config.role = .echo := fun h => echo_of_comparator h hc
  have hline : Keeps s ((s.mapPort n fun p => stopped .fault p.release).stopSlots n) :=
    keeps_lineStops (le_max_right _ _) (fun h => sound_fault (hrole h)) fun h => by
      rw [watchedPort_state (by nofun), watchedPort_role (by simp [hrole h])]
  refine keeps_stopEnded_of ?_
  rw [queueNotice_mapPort]
  have hsame : ((s.mapPort n Port.release).stopSlots n).mapPort n (stopped .fault) =
      (s.mapPort n fun p => stopped .fault p.release).stopSlots n := by
    rw [← mapPort_mapPort s n Port.release]
    rfl
  rw [hsame]
  exact hline.trans (keeps_queueNotice _ _)

/-- A line that stops being served by the plan neither before nor after. -/
theorem keeps_lineIdle {s : State} {n : LineNo} {f : Port → Port}
    (hsend : (f (s.port n)).sendQueue.length ≤ max 32 (s.port n).sendQueue.length)
    (hsound : (s.port n).Sound → (f (s.port n)).Sound)
    (hplan : (f (s.port n)).servesPlan = (s.port n).servesPlan)
    (hwatched : (s.port n).Sound → watchedPort (f (s.port n)) = watchedPort (s.port n)) :
    Keeps s (s.mapPort n f) where
  toKeepsTraffic := (trafficFrame_withPort hsend).keeps
  lines hl m := by
    rw [port_mapPort_eq]
    split
    · exact hsound (hl n)
    · exact hl m
  plan := PlanSound_of_eq rfl fun m => by
    rw [port_mapPort_eq]
    split
    next hm => rw [hm, hplan]
    next => rfl
  tags hl := TagsSound_of_eq rfl rfl id (watched_mapPort (hwatched (hl n)))

/-- R133: the end of a stop. -/
theorem keeps_tryEndStop (n : LineNo) (s : State) : Keeps s (s.tryEndStop n) := by
  rw [State.tryEndStop]
  refine .ite (fun hend => keeps_stopEnded_of ?_) fun _ => .refl s
  have hstate : (s.port n).state = .stopping := by
    simp only [Port.stopCanEnd, Bool.and_eq_true, beq_iff_eq] at hend
    exact hend.1.1
  rw [mapPort_mapPort]
  refine keeps_lineIdle (le_max_right _ _) (fun h => sound_ready ?_) ?_ fun _ => ?_
  · rw [ne_eq, ← h.off, hstate]
    nofun
  · rw [servesPlan_state (by nofun), servesPlan_state (by simp [hstate])]
  · rw [watchedPort_state (by nofun), watchedPort_state (by simp [hstate])]

/-! ### Judging a read-back (R117 to R121) -/

theorem keeps_judged {s : State} {n : LineNo} (word : LineBits) (judgement : Judgement) (stamp : Stamp)
    (hc : (s.port n).comparator ≠ .inactive) : Keeps s (s.judged n word judgement stamp) := by
  have hclear : ∀ (consecutive : Nat) (counters : LineCounters),
      Keeps s (s.withPort n { s.port n with comparator := .clear, consecutive, counters }) := fun _ _ =>
    keeps_withPort (suits_of_use (comparator := by simp [hc])) (le_max_right _ _)
  simp only [State.judged]
  split
  next => exact (hclear 0 _).trans (.ite (fun _ => keeps_offerItem _ _) fun _ => .refl _)
  next =>
    refine ((hclear _ _).trans (keeps_queueNotice _ _)).trans (.ite (fun _ => keeps_enterFault _ _ _ ?_) fun _ => .refl _)
    simp

/-! ### The receiver (R6 to R12) -/

theorem keeps_firstEdge (line : LineNo) (sense : Polarity) (s : State) :
    Keeps s (s.mapPort line fun p =>
      { p with pair := some sense, receiver := match p.receiver with | .idle false => .inWord 0 0 | r => r }) := by
  refine keeps_mapPort (suits_of_use (receiver := ?_)) (le_max_right _ _)
  simp only
  split
  next h => simp [h]
  next => rfl

theorem takeBit_dormant (first second : Polarity) (r : Receiver) :
    r.takeBit first second = .dormant ↔ r = .dormant := by
  cases r with
  | inWord count bits => cases h : bitOfHalves first second <;> simp [Receiver.takeBit, h]
  | _ => simp [Receiver.takeBit]

theorem keeps_receiveOutcome (s : State) (line : LineNo) (o : ReceiverOutcome) : Keeps s (s.receiveOutcome line o) := by
  simp only [State.receiveOutcome]
  split
  next => exact (keeps_countLine s _ _).trans (keeps_offerItem _ _)
  next =>
    exact ((keeps_countLine s _ _).trans (keeps_queueNoticeIf _ _ _)).trans
      (.ite (fun _ => keeps_offerItem _ _) fun _ => .refl _)

theorem keeps_echoOutcome (s : State) (line : LineNo) (o : ReceiverOutcome) : Keeps s (s.echoOutcome line o) := by
  simp only [State.echoOutcome]
  split
  next word _ _ _ hc _ => exact keeps_withPort (suits_of_use (comparator := by simp [hc])) (le_max_right _ _)
  next hc _ => exact keeps_judged _ _ _ (by simp [hc])
  next => exact keeps_countLine s _ _

/-- A receiver in which a word ends is in use. -/
theorem receiver_of_wordEnd {r : Receiver} {x : OutcomeKind × LineBits} (h : r.wordEnd = some x) : r ≠ .dormant := by
  rintro rfl
  cases h

/-! ### The transmitter (R13, R118) -/

theorem keeps_endSending {s : State} {n : LineNo} : Keeps s (s.mapPort n Port.endSending) := by
  refine keeps_mapPort ?_ ?_
  · simp only [Port.endSending]
    split
    next h =>
      refine suits_of_use (transmitter := by simp [h]) (comparator := ?_)
      simp only
      split
      next hc => simp [hc]
      next => rfl
    next => exact .refl _
  · simp only [Port.endSending]
    split <;> exact le_max_right _ _

/-- R103: a line that may start a word has its transmitter FREE, RUNNING or STOPPING. -/
theorem mayStartWord_spec {p : Port} (h : p.mayStartWord = true) :
    p.transmitter = .free ∧ (p.state = .running ∨ p.state = .stopping) := by
  simp only [Port.mayStartWord, Bool.and_eq_true, Bool.or_eq_true, beq_iff_eq] at h
  exact ⟨h.1, h.2.imp id And.left⟩

/-- R13, R116: the port of a line when a word enters SENDING. -/
def sendingPort (word : LineBits) (ends : Nat) (p : Port) : Port :=
  { p with
    transmitter := .sending word ends
    comparator := if p.config.role = .echo then .waiting word none else p.comparator }

theorem suits_sendingPort {p : Port} (word : LineBits) (ends : Nat) (hfree : p.transmitter = .free)
    (hstate : p.state = .running ∨ p.state = .stopping) : Suits p (sendingPort word ends p) where
  state := rfl
  role := rfl
  sound h := by
    refine ⟨h.off, h.stopping, h.fault, h.stop, h.receiver, ?_, ?_⟩
    · have htransmitter := h.transmitter
      rw [hfree] at htransmitter
      exact iff_of_false nofun (mt htransmitter.2 nofun)
    · simp only [sendingPort]
      split
      next hrole =>
        refine iff_of_false nofun ?_
        rcases hstate with hstate | hstate <;> simp [Port.receiverActive, hrole, hstate]
      next => exact h.comparator

theorem keeps_startSending {s : State} {n : LineNo} (tag : Tag) (value : Value)
    (h : (s.port n).transmitter = .free ∧ ((s.port n).state = .running ∨ (s.port n).state = .stopping)) :
    Keeps s (s.startSending n tag value) :=
  keeps_mapPort (f := fun p => sendingPort (lineWord tag value) (s.time.runClock + 40 * bitTime p.config.rate) p)
    (suits_sendingPort _ _ h.1 h.2) (le_max_right _ _)

/-! ### The plan (R93 to R99, R105) -/

theorem withSlot_indices (s : State) (slot : Slot) :
    (s.withSlot slot).plan.map Slot.index = s.plan.map Slot.index := by
  simp only [State.withSlot, List.map_map]
  refine List.map_congr_left fun other _ => ?_
  simp only [Function.comp_apply]
  split
  next h => exact h.symm
  next => rfl

/-- Index order is a matter of the list of indices. -/
theorem order_of_indices {plan plan' : List Slot} (h : plan'.map Slot.index = plan.map Slot.index)
    (ho : plan.Pairwise fun a b => a.index < b.index) : plan'.Pairwise fun a b => a.index < b.index :=
  List.pairwise_map.1 (h ▸ List.pairwise_map.2 ho)

theorem keeps_withSlot {s : State} {slot : Slot} (hslot : s.PlanSound → slot.Sound s) : Keeps s (s.withSlot slot) where
  toKeepsTraffic := TrafficFrame.keeps { indices := by rw [withSlot_indices]; exact id }
  lines h := h
  plan h := by
    refine ⟨fun other hother => ?_, order_of_indices (withSlot_indices s slot) h.order⟩
    obtain ⟨old, hold, rfl⟩ := List.mem_map.1 hother
    suffices hsound : Slot.Sound s (if old.index = slot.index then slot else old) from
      ⟨hsound.period, hsound.phase, hsound.limit, hsound.due, hsound.pending⟩
    split
    · exact hslot h
    · exact h.slots old hold
  tags _ := TagsSound_of_eq rfl rfl id rfl

theorem slotAt_mem {s : State} {index : SlotNo} {slot : Slot} (h : s.slotAt index = some slot) : slot ∈ s.plan :=
  List.mem_of_find?_eq_some h

/-- R104: the slot served first is one of the line's pending slots. -/
theorem firstPending_spec {line : LineNo} {plan : List Slot} {slot : Slot} (h : firstPending line plan = some slot) :
    slot ∈ plan ∧ slot.line = line ∧ slot.pending.isSome = true := by
  have hfold : ∀ (l : List Slot) (init : Option Slot), l.foldl (fun best slot =>
      match best with
      | some b => if slot.servedBefore b then some slot else some b
      | none => some slot) init = some slot → slot ∈ l ∨ init = some slot := by
    intro l
    induction l with
    | nil => exact fun _ h => .inr h
    | cons a rest ih =>
      intro init h
      rcases ih _ h with hmem | hinit
      · exact .inl (List.mem_cons_of_mem _ hmem)
      · cases init with
        | none => exact .inl (by simp_all)
        | some b =>
          simp only at hinit
          split at hinit
          · exact .inl (by simp_all)
          · exact .inr hinit
  rcases hfold _ _ h with hmem | hinit
  · simpa [and_assoc] using hmem
  · cases hinit

/-- R105: a slot keeps its soundness when it is selected: at its limit it can no longer come due, and has no due time. -/
theorem selected_sound {s : State} {slot : Slot} (h : slot.Sound s) : slot.selected.Sound s := by
  refine ⟨h.period, h.phase, by simpa [Slot.selected] using h.limit, ?_, nofun⟩
  have hdue := h.due
  simp only [State.canComeDue, Bool.and_eq_true] at hdue ⊢
  intro hnext
  cases hdone : (slot.remaining.map fun r => r - 1) == some 0 with
  | true => simp [Slot.selected, hdone] at hnext
  | false =>
    simp only [Slot.selected, hdone] at hnext ⊢
    simpa using hdue hnext

/-- R98: a slot that falls due can come due, so its next due time and what it holds pending are sound. -/
theorem fallDue_sound {s : State} {slot : Slot} {due : Nat} (hdue : slot.nextDue = some due) (h : slot.Sound s) :
    (slot.fallDue due).Sound s := by
  have hcan : s.canComeDue slot.line slot.settings = true := h.due (by simp [hdue])
  simp only [Slot.fallDue]
  split
  · exact ⟨h.period, h.phase, h.limit, fun _ => hcan, h.pending⟩
  · split
    · exact ⟨h.period, h.phase, h.limit, fun _ => hcan, h.pending⟩
    · exact ⟨h.period, h.phase, h.limit, fun _ => hcan, fun _ => hcan⟩

theorem keeps_choose {s : State} {line : LineNo} {candidate : Candidate} (h : s.selection line = some candidate) :
    Keeps s (s.choose line candidate) := by
  simp only [State.selection] at h
  split at h
  next hmay =>
    have hport := mayStartWord_spec hmay
    cases candidate with
    | queued word =>
      refine (keeps_mapPort suits_of_use (by simp)).trans (keeps_startSending _ _ ?_)
      simpa using hport
    | slot slot =>
      have hslot : firstPending line s.plan = some slot := by
        split at h
        · simpa using h
        · exact And.right (a := (s.port line).sendQueue = []) (by simpa using h)
      refine ((keeps_withSlot fun hp => selected_sound (hp.slots slot (firstPending_spec hslot).1)).trans
        (keeps_startSending _ _ ?_)).trans (keeps_queueNoticeIf _ _ _)
      simpa using hport
  next => cases h

theorem keeps_fallDue {s : State} {slot : Slot} {due : Nat} (hslot : slot ∈ s.plan) (hdue : slot.nextDue = some due) :
    Keeps s (s.fallDue slot due) :=
  (keeps_withSlot fun hp => fallDue_sound hdue (hp.slots slot hslot)).trans (keeps_queueNoticeIf _ _ _)

end Sys2Proof.Proofs
end

section
/-! PROOFS. What every command keeps, third part: the Tag Table, its entries under the line changes that wait for its
work, and the starts and stops of lines. -/

namespace Sys2Proof.Proofs

-- One theorem after another: elaborating them all at once costs a thread and its stack for each.
set_option Elab.async false

open Sys2Proof.Machine Sys2Proof.Laws

/-! ### Monitoring and the line changes that wait (R43, R44) -/

/-- The changes that wait and the monitoring now decide what the entries show before them. -/
theorem changesMonitoring_unique {line : LineNo} {changes : List LineChange} {now before before' : Bool}
    (h : ChangesMonitoring line before changes now) (h' : ChangesMonitoring line before' changes now) :
    before = before' := by
  induction changes generalizing before before' with
  | nil => exact (show before = now from h).trans (show before' = now from h').symm
  | cons change rest ih =>
    cases change with
    | started other monitored t0 =>
      by_cases ho : other = line
      · simp only [ChangesMonitoring, ho, if_true] at h h'
        exact h.1.trans h'.1.symm
      · simp only [ChangesMonitoring, ho, if_false] at h h'
        exact ih h h'
    | stopped other moment =>
      by_cases ho : other = line
      · simp only [ChangesMonitoring, ho, if_true] at h h'
        exact h.1.trans h'.1.symm
      · simp only [ChangesMonitoring, ho, if_false] at h h'
        exact ih h h'

theorem changesMonitoring_append {line : LineNo} {changes later : List LineChange} {before now then_ : Bool}
    (h : ChangesMonitoring line before changes now) (k : ChangesMonitoring line now later then_) :
    ChangesMonitoring line before (changes ++ later) then_ := by
  induction changes generalizing before with
  | nil => exact (show before = now from h) ▸ k
  | cons change rest ih =>
    cases change with
    | started other monitored t0 =>
      by_cases ho : other = line
      · simp only [List.cons_append, ChangesMonitoring, ho, if_true] at h ⊢
        exact ⟨h.1, ih h.2⟩
      · simp only [List.cons_append, ChangesMonitoring, ho, if_false] at h ⊢
        exact ih h
    | stopped other moment =>
      by_cases ho : other = line
      · simp only [List.cons_append, ChangesMonitoring, ho, if_true] at h ⊢
        exact ⟨h.1, ih h.2⟩
      · simp only [List.cons_append, ChangesMonitoring, ho, if_false] at h ⊢
        exact ih h

/-- The line of a change. -/
def LineChange.line : LineChange → LineNo
  | .started line _ _ | .stopped line _ => line

/-- Whether the entries of a change's line are monitored before it. -/
def monitoredBefore : LineChange → Bool
  | .started _ _ _ => false
  | .stopped _ _ => true

/-- Whether the entries of a change's line are monitored after it. -/
def monitoredAfter : LineChange → Bool
  | .started _ monitored _ => monitored
  | .stopped _ _ => false

theorem changesMonitoring_cons_same (change : LineChange) (rest : List LineChange) (before now : Bool) :
    ChangesMonitoring (LineChange.line change) before (change :: rest) now ↔
      before = monitoredBefore change ∧
        ChangesMonitoring (LineChange.line change) (monitoredAfter change) rest now := by
  cases change <;> simp [ChangesMonitoring, LineChange.line, monitoredBefore, monitoredAfter]

theorem changesMonitoring_cons_other {line : LineNo} {change : LineChange} (h : LineChange.line change ≠ line)
    (rest : List LineChange) (before now : Bool) :
    ChangesMonitoring line before (change :: rest) now ↔ ChangesMonitoring line before rest now := by
  cases change <;> simp_all [ChangesMonitoring, LineChange.line]

/-- An entry that may stand in the table: sound, and monitored as the changes that wait and the lines give. -/
structure EntryFits (changes : List LineChange) (now : LineNo → Bool) (e : Entry) : Prop where
  sound : e.Sound
  monitored : ∀ line before, e.key.line = .port line → ChangesMonitoring line before changes (now line) →
    e.settings.deadline ≠ none → e.freshness.isMonitored = before

/-- A table that fits the changes that wait and the lines: TagsSound but for what it says of the Tag Table's work. -/
structure TagsFit (tags : List Entry) (changes : List LineChange) (now : LineNo → Bool) : Prop where
  fits : ∀ e ∈ tags, EntryFits changes now e
  order : tags.Pairwise fun a b => a.key.rank < b.key.rank
  changes : ∀ line, ∃ before, ChangesMonitoring line before changes (now line)

theorem tagsSound_iff (s : State) :
    s.TagsSound ↔ TagsFit s.tags s.lineChanges (watched s) ∧ (s.busy = none → s.lineChanges = []) := by
  constructor
  · intro h
    refine ⟨⟨fun e he => ⟨h.entries e he, fun line before hline hbefore hdeadline => ?_⟩, h.order, fun line => ?_⟩,
      h.changes⟩
    · obtain ⟨before', hbefore', hentries⟩ := h.monitored line
      rw [hentries e he hline hdeadline]
      exact changesMonitoring_unique hbefore' hbefore
    · obtain ⟨before, hbefore, -⟩ := h.monitored line
      exact ⟨before, hbefore⟩
  · rintro ⟨hfit, hchanges⟩
    refine ⟨fun e he => (hfit.fits e he).sound, hfit.order, hchanges, fun line => ?_⟩
    obtain ⟨before, hbefore⟩ := hfit.changes line
    exact ⟨before, hbefore, fun e he hline => (hfit.fits e he).monitored line before hline hbefore⟩

/-- Listing order is a matter of the keys. -/
theorem order_of_keys {tags tags' : List Entry} (h : tags'.map Entry.key = tags.map Entry.key)
    (ho : tags.Pairwise fun a b => a.key.rank < b.key.rank) : tags'.Pairwise fun a b => a.key.rank < b.key.rank :=
  (List.pairwise_map (R := fun a b : Key => a.rank < b.rank)).1 (h ▸ List.pairwise_map.2 ho)

/-! ### One entry replaced -/

theorem withEntry_keys (s : State) (e : Entry) : (s.withEntry e).tags.map Entry.key = s.tags.map Entry.key := by
  simp only [State.withEntry, List.map_map]
  refine List.map_congr_left fun other _ => ?_
  simp only [Function.comp_apply]
  split
  next h => exact h.symm
  next => rfl

theorem withEntry_fit {s : State} {e : Entry} {changes : List LineChange} {now : LineNo → Bool}
    (h : TagsFit s.tags changes now) (he : EntryFits changes now e) : TagsFit (s.withEntry e).tags changes now := by
  refine ⟨fun other hother => ?_, order_of_keys (withEntry_keys s e) h.order, h.changes⟩
  obtain ⟨old, hold, rfl⟩ := List.mem_map.1 hother
  split
  · exact he
  · exact h.fits old hold

theorem withEntry_mem {s : State} {e old : Entry} (hold : old ∈ s.tags) (hkey : old.key = e.key) :
    e ∈ (s.withEntry e).tags :=
  List.mem_map.2 ⟨old, hold, if_pos hkey⟩

theorem withEntry_traffic (s : State) (e : Entry) : TrafficFrame s (s.withEntry e) :=
  { tagCount := by simp [State.withEntry] }

/-- An entry replaced by one that fits the table. -/
theorem keeps_withEntry_fits {s : State} {e : Entry}
    (he : s.TagsSound → EntryFits s.lineChanges (watched s) e) : Keeps s (s.withEntry e) where
  toKeepsTraffic := (withEntry_traffic s e).keeps
  lines h := h
  plan := PlanSound_of_eq rfl fun _ => rfl
  tags _ h := by
    obtain ⟨hfit, hchanges⟩ := (tagsSound_iff s).1 h
    exact (tagsSound_iff _).2 ⟨withEntry_fit hfit (he h), hchanges⟩

/-- An entry replaced by one that fits wherever the one before did. -/
theorem keeps_withEntry {s : State} {e : Entry} {old : Entry} (hold : old ∈ s.tags)
    (he : ∀ changes now, EntryFits changes now old → EntryFits changes now e) : Keeps s (s.withEntry e) :=
  keeps_withEntry_fits fun h => he _ _ (((tagsSound_iff s).1 h).1.fits old hold)

/-- An entry with another state fits where its key and settings stay, a value is held only where it is to be kept, and
it is monitored as before. -/
theorem EntryFits.restate {changes : List LineChange} {now : LineNo → Bool} {e e' : Entry} (h : EntryFits changes now e)
    (hkey : e'.key = e.key) (hsettings : e'.settings = e.settings)
    (hlatest : e'.latest.isSome = true → e.settings.keepLatest = true)
    (hnone : e'.freshness = .none ↔ e.freshness = .none)
    (hmonitored : e'.freshness.isMonitored = e.freshness.isMonitored) : EntryFits changes now e' where
  sound := by
    obtain ⟨hdeadline, hmin, hany, hchange, -, hfresh⟩ := h.sound
    refine ⟨?_, ?_, ?_, ?_, ?_, ?_⟩ <;> rw [hsettings]
    · exact hdeadline
    · exact hmin
    · rw [hkey]; exact hany
    · exact hchange
    · exact hlatest
    · rw [hnone]; exact hfresh
  monitored := by
    rw [hkey, hsettings, hmonitored]
    exact h.monitored

/-! ### Expiries (R46) -/

/-- What an expiry can do: nothing, or its entry goes STALE with a notice. -/
theorem expire_cases (s : State) (e : Entry) :
    s.expire e = s ∨ e.freshness.isMonitored = true ∧
      ∃ since notice, s.expire e = (s.withEntry { e with freshness := .stale since }).queueNotice notice := by
  cases h : e.freshness <;> simp [State.expire, h, Freshness.isMonitored]
  case unseen => exact .inr ⟨_, _, rfl⟩
  case fresh => exact .inr ⟨_, _, rfl⟩

/-- An entry that goes STALE from a state in which it is monitored. -/
theorem stale_fits {changes : List LineChange} {now : LineNo → Bool} {e : Entry} (since : Nat)
    (hm : e.freshness.isMonitored = true) (h : EntryFits changes now e) :
    EntryFits changes now { e with freshness := .stale since } := by
  refine h.restate rfl rfl h.sound.latest (iff_of_false nofun ?_) hm.symm
  rintro hnone
  simp [hnone, Freshness.isMonitored] at hm

theorem keeps_expire {s : State} {e : Entry} (he : e ∈ s.tags) : Keeps s (s.expire e) := by
  rcases expire_cases s e with h | ⟨hm, since, notice, h⟩ <;> rw [h]
  · exact .refl s
  · exact (keeps_withEntry he fun _ _ => stale_fits since hm).trans (keeps_queueNotice _ _)

theorem expire_traffic (s : State) (e : Entry) : KeepsTraffic s (s.expire e) := by
  rcases expire_cases s e with h | ⟨-, since, notice, h⟩ <;> rw [h]
  · exact .refl s
  · exact (withEntry_traffic s _).keeps.trans (keeps_queueNotice _ _).toKeepsTraffic

/-- What a change of entries leaves, with or without notices: everything but the table and the notices. -/
structure TagsOnly (s t : State) : Prop where
  ports : t.ports = s.ports
  busy : t.busy = s.busy
  lineChanges : t.lineChanges = s.lineChanges
  plan : t.plan = s.plan
  link : t.link = s.link

theorem TagsOnly.refl (s : State) : TagsOnly s s := ⟨rfl, rfl, rfl, rfl, rfl⟩

theorem TagsOnly.trans {s t u : State} (h : TagsOnly s t) (k : TagsOnly t u) : TagsOnly s u :=
  ⟨k.ports.trans h.ports, k.busy.trans h.busy, k.lineChanges.trans h.lineChanges, k.plan.trans h.plan,
    k.link.trans h.link⟩

theorem TagsOnly.port {s t : State} (h : TagsOnly s t) (n : LineNo) : t.port n = s.port n := by
  simp [State.port, h.ports]

theorem expire_tagsOnly (s : State) (e : Entry) : TagsOnly s (s.expire e) := by
  rcases expire_cases s e with h | ⟨-, since, notice, h⟩ <;> rw [h]
  · exact .refl s
  · exact ⟨by simp, by simp, by simp, by simp, by simp⟩

theorem expire_fit {s : State} {e : Entry} {changes : List LineChange} {now : LineNo → Bool}
    (h : TagsFit s.tags changes now) (he : EntryFits changes now e) : TagsFit (s.expire e).tags changes now := by
  rcases expire_cases s e with hs | ⟨hm, since, notice, hs⟩ <;> rw [hs]
  · exact h
  · rw [queueNotice_tags]
    exact withEntry_fit h (stale_fits since hm he)

/-- One expiry of those that waited since before a moment. -/
def expireIfBefore (line : LineNo) (moment : Nat) (s : State) (e : Entry) : State :=
  match e.freshness.expiry with
  | some t => if e.key.line = .port line ∧ t < moment then s.expire e else s
  | none => s

theorem expireBefore_eq (line : LineNo) (moment : Nat) (s : State) :
    s.expireBefore line moment = s.tags.foldl (expireIfBefore line moment) s := rfl

theorem expireIfBefore_cases (line : LineNo) (moment : Nat) (s : State) (e : Entry) :
    expireIfBefore line moment s e = s ∨ expireIfBefore line moment s e = s.expire e := by
  rw [expireIfBefore]
  split
  · split
    · exact .inr rfl
    · exact .inl rfl
  · exact .inl rfl

theorem expireBefore_traffic (line : LineNo) (moment : Nat) (s : State) :
    KeepsTraffic s (s.expireBefore line moment) := by
  refine KeepsTraffic.foldl (f := expireIfBefore line moment) (fun s e => ?_) s.tags s
  rcases expireIfBefore_cases line moment s e with h | h <;> rw [h]
  · exact .refl s
  · exact expire_traffic s e

theorem expireBefore_tagsOnly (line : LineNo) (moment : Nat) (s : State) : TagsOnly s (s.expireBefore line moment) := by
  rw [expireBefore_eq]
  generalize s.tags = entries
  induction entries generalizing s with
  | nil => exact .refl s
  | cons e rest ih =>
    refine .trans ?_ (ih _)
    rcases expireIfBefore_cases line moment s e with h | h <;> rw [h]
    · exact .refl s
    · exact expire_tagsOnly s e

theorem expireBefore_fit {s : State} {changes : List LineChange} {now : LineNo → Bool} (line : LineNo) (moment : Nat)
    (h : TagsFit s.tags changes now) : TagsFit (s.expireBefore line moment).tags changes now := by
  have hall := h.fits
  rw [expireBefore_eq]
  generalize s.tags = entries at hall
  induction entries generalizing s with
  | nil => exact h
  | cons e rest ih =>
    refine ih ?_ fun other hother => hall other (List.mem_cons_of_mem e hother)
    rcases expireIfBefore_cases line moment s e with hs | hs <;> rw [hs]
    · exact h
    · exact expire_fit h (hall e List.mem_cons_self)

/-! ### Line starts and stops at the entries (R22, R43, R44) -/

/-- A line change as the entries of its line meet it. -/
def entryChange : LineChange → Entry → Entry
  | .started _ monitored t0 => Entry.atStart monitored t0
  | .stopped _ _ => Entry.atStop

/-- The state whose entries a line change meets: those that waited to expire before a stop have done so. -/
def beforeChange (s : State) : LineChange → State
  | .started _ _ _ => s
  | .stopped line moment => s.expireBefore line moment

theorem applyLineChange_eq (s : State) (change : LineChange) :
    s.applyLineChange change = (beforeChange s change).mapEntriesOf (LineChange.line change) (entryChange change) := by
  cases change <;> rfl

theorem mapEntriesOf_traffic (s : State) (line : LineNo) (f : Entry → Entry) : TrafficFrame s (s.mapEntriesOf line f) :=
  { tagCount := by simp [State.mapEntriesOf] }

theorem applyLineChange_traffic (s : State) (change : LineChange) : KeepsTraffic s (s.applyLineChange change) := by
  rw [applyLineChange_eq]
  refine .trans ?_ (mapEntriesOf_traffic _ _ _).keeps
  cases change with
  | started => exact .refl s
  | stopped => exact expireBefore_traffic _ _ s

theorem applyLineChange_tagsOnly (s : State) (change : LineChange) : TagsOnly s (s.applyLineChange change) := by
  rw [applyLineChange_eq]
  refine .trans (t := beforeChange s change) ?_ ⟨rfl, rfl, rfl, rfl, rfl⟩
  cases change with
  | started => exact .refl s
  | stopped => exact expireBefore_tagsOnly _ _ s

@[simp] theorem entryChange_key (change : LineChange) (e : Entry) : (entryChange change e).key = e.key := by
  cases change <;> rfl

@[simp] theorem entryChange_settings (change : LineChange) (e : Entry) :
    (entryChange change e).settings = e.settings := by
  cases change <;> rfl

@[simp] theorem entryChange_latest (change : LineChange) (e : Entry) : (entryChange change e).latest = e.latest := by
  cases change <;> rfl

/-- A line change takes an entry with a deadline from the monitoring it starts from to the one it ends in, and an entry
stays without freshness. -/
theorem entryChange_freshness {change : LineChange} {e : Entry} (h : e.Sound) :
    ((entryChange change e).freshness = .none ↔ e.freshness = .none) ∧
      (e.settings.deadline ≠ none → e.freshness.isMonitored = monitoredBefore change →
        (entryChange change e).freshness.isMonitored = monitoredAfter change) := by
  have hfresh := h.freshness
  cases change with
  | started line monitored t0 =>
    cases hf : e.freshness <;> cases hd : e.settings.deadline <;> cases monitored <;>
      simp_all [entryChange, Entry.atStart, Freshness.isMonitored, monitoredBefore, monitoredAfter]
  | stopped line moment =>
    cases hf : e.freshness <;>
      simp_all [entryChange, Entry.atStop, Freshness.isMonitored, monitoredBefore, monitoredAfter]

/-- A table that fits with a change waiting fits without it once the change has met its entries. -/
theorem mapEntriesOf_fit {s : State} {change : LineChange} {rest : List LineChange} {now : LineNo → Bool}
    (h : TagsFit s.tags (change :: rest) now) :
    TagsFit (s.mapEntriesOf (LineChange.line change) (entryChange change)).tags rest now := by
  have hkeys : (s.mapEntriesOf (LineChange.line change) (entryChange change)).tags.map Entry.key =
      s.tags.map Entry.key := by
    simp only [State.mapEntriesOf, List.map_map]
    refine List.map_congr_left fun e _ => ?_
    simp only [Function.comp_apply]
    split <;> simp
  have hafter : ∀ line, ∃ before, ChangesMonitoring line before rest (now line) := fun line => by
    obtain ⟨before, hbefore⟩ := h.changes line
    by_cases hline : LineChange.line change = line
    · subst hline
      exact ⟨_, ((changesMonitoring_cons_same _ _ _ _).1 hbefore).2⟩
    · exact ⟨before, (changesMonitoring_cons_other hline _ _ _).1 hbefore⟩
  refine ⟨fun e' he' => ?_, order_of_keys hkeys h.order, hafter⟩
  obtain ⟨e, he, rfl⟩ := List.mem_map.1 he'
  obtain ⟨hsound, hmonitored⟩ := h.fits e he
  obtain ⟨hnone, hchanged⟩ := entryChange_freshness (change := change) hsound
  split
  next hkey =>
    obtain ⟨hdeadline, hmin, hany, hchange, hlatest, hfresh⟩ := hsound
    refine ⟨⟨by simpa using hdeadline, by simpa using hmin, by simpa using hany, by simpa using hchange,
      by simpa using hlatest, by simpa using hnone.trans hfresh⟩, fun line before hline hbefore hpresent => ?_⟩
    rw [entryChange_key, hkey] at hline
    obtain rfl : LineChange.line change = line := by simpa using hline
    obtain ⟨first, hfirst⟩ := h.changes (LineChange.line change)
    obtain ⟨hstart, hrest⟩ := (changesMonitoring_cons_same _ _ _ _).1 hfirst
    rw [entryChange_settings] at hpresent
    rw [hchanged hpresent ((hmonitored _ _ hkey hfirst hpresent).trans hstart)]
    exact changesMonitoring_unique hrest hbefore
  next hkey =>
    refine ⟨hsound, fun line before hline hbefore => hmonitored line before hline ?_⟩
    have hother : LineChange.line change ≠ line := fun heq => hkey (heq ▸ hline)
    exact (changesMonitoring_cons_other hother _ _ _).2 hbefore

theorem applyLineChange_fit {s : State} {change : LineChange} {rest : List LineChange} {now : LineNo → Bool}
    (h : TagsFit s.tags (change :: rest) now) : TagsFit (s.applyLineChange change).tags rest now := by
  rw [applyLineChange_eq]
  refine mapEntriesOf_fit ?_
  cases change with
  | started => exact h
  | stopped => exact expireBefore_fit _ _ h

theorem applyLineChanges_fit {s : State} {changes : List LineChange} {now : LineNo → Bool}
    (h : TagsFit s.tags changes now) : TagsFit (changes.foldl State.applyLineChange s).tags [] now := by
  induction changes generalizing s with
  | nil => exact h
  | cons change rest ih => exact ih (applyLineChange_fit h)

theorem applyLineChanges_tagsOnly (changes : List LineChange) (s : State) :
    TagsOnly s (changes.foldl State.applyLineChange s) := by
  induction changes generalizing s with
  | nil => exact .refl s
  | cons change rest ih => exact (applyLineChange_tagsOnly s change).trans (ih _)

/-- A change joins those that wait: the lines follow it at once, the entries when it reaches them. -/
theorem TagsFit.append {tags : List Entry} {changes : List LineChange} {now then_ : LineNo → Bool}
    (h : TagsFit tags changes now) (change : LineChange)
    (hstep : ∀ line, ChangesMonitoring line (now line) [change] (then_ line)) :
    TagsFit tags (changes ++ [change]) then_ := by
  refine ⟨fun e he => ⟨(h.fits e he).sound, fun line before hline hbefore hpresent => ?_⟩, h.order, fun line => ?_⟩
  · obtain ⟨first, hfirst⟩ := h.changes line
    rw [(h.fits e he).monitored line first hline hfirst hpresent]
    exact changesMonitoring_unique (changesMonitoring_append hfirst (hstep line)) hbefore
  · obtain ⟨first, hfirst⟩ := h.changes line
    exact ⟨first, changesMonitoring_append hfirst (hstep line)⟩

theorem lineChanged_traffic (change : LineChange) (s : State) : KeepsTraffic s (s.lineChanged change) := by
  rw [State.lineChanged]
  split
  · exact TrafficFrame.keeps {}
  · exact applyLineChange_traffic s change

theorem lineChanged_plan (change : LineChange) (s : State) : (s.lineChanged change).plan = s.plan := by
  rw [State.lineChanged]
  split
  · rfl
  · exact (applyLineChange_tagsOnly s change).plan

@[simp] theorem lineChanged_link (change : LineChange) (s : State) : (s.lineChanged change).link = s.link := by
  rw [State.lineChanged]
  split
  · rfl
  · exact (applyLineChange_tagsOnly s change).link

@[simp] theorem lineChanged_port (change : LineChange) (s : State) (n : LineNo) :
    (s.lineChanged change).port n = s.port n := by
  rw [State.lineChanged]
  split
  · rfl
  · exact (applyLineChange_tagsOnly s change).port n

/-- R43, R44: a line change keeps the table in agreement with the lines that it follows. -/
theorem lineChanged_tagsSound {change : LineChange} {s : State} {now : LineNo → Bool}
    (h : TagsFit s.tags s.lineChanges now) (hchanges : s.busy = none → s.lineChanges = [])
    (hstep : ∀ line, ChangesMonitoring line (now line) [change] (watched s line)) :
    (s.lineChanged change).TagsSound := by
  have hjoined := h.append change hstep
  have hwatched : watched (s.lineChanged change) = watched s := by
    funext n
    simp [watched]
  rw [tagsSound_iff, hwatched, State.lineChanged]
  split
  next hbusy =>
    refine ⟨hjoined, fun hnone => ?_⟩
    rw [show s.busy = none from hnone] at hbusy
    cases hbusy
  next hidle =>
    have hnone : s.lineChanges = [] := hchanges (by simpa using hidle)
    rw [hnone] at hjoined
    obtain ⟨-, -, hlater, -, -⟩ := applyLineChange_tagsOnly s change
    rw [hlater, hnone]
    exact ⟨applyLineChange_fit hjoined, fun _ => rfl⟩

/-! ### START_LINE and STOP_LINE (R128, R131) -/

/-- R128: the port of a line that starts. -/
def startedPort (t0 : Nat) (p : Port) : Port := { p with state := .running, t0 := some t0 }.activate

theorem startedPort_sound {t0 : Nat} {p : Port} (hready : p.state = .ready) (h : p.Sound) :
    (startedPort t0 p).Sound := by
  obtain ⟨hoff, hstopping, hfault, hstop, hreceiver, htransmitter, hcomparator⟩ := h
  constructor <;>
    cases hrole : p.config.role <;>
    simp_all [startedPort, Port.activate, Port.receiverActive, Port.driverActive]

/-- R96: the slots of a line whose settings alone decide whether they can come due take their next due time. -/
theorem startSlots_sound {s : State} {n : LineNo} {p : Port} (hidle : (s.port n).state ≠ .running)
    (h : s.PlanSound) : ((s.withPort n p).startSlots n).PlanSound where
  slots slot hslot := by
    obtain ⟨old, hold, rfl⟩ := List.mem_map.1 hslot
    have hsound := h.slots old hold
    split
    next hline =>
      have hpending : old.pending.isSome = true → False := fun hp => by
        have hcan := hsound.pending hp
        simp [State.canComeDue, hline, servesPlan_state hidle] at hcan
      refine ⟨hsound.period, hsound.phase, hsound.limit, fun hdue => ?_, fun hp => (hpending hp).elim⟩
      simp only [State.joinGrid] at hdue
      split at hdue
      next hcan => exact hcan
      next => cases hdue
    next hline =>
      have hcan : ((s.withPort n p).startSlots n).canComeDue old.line old.settings =
          s.canComeDue old.line old.settings := by
        simp [State.canComeDue, port_withPort_ne _ _ _ _ hline]
      exact ⟨hsound.period, hsound.phase, hsound.limit, by rw [hcan]; exact hsound.due,
        by rw [hcan]; exact hsound.pending⟩
  order := by
    refine order_of_indices (plan := s.plan) ?_ h.order
    simp only [State.startSlots, withPort_plan, List.map_map]
    refine List.map_congr_left fun slot _ => ?_
    simp only [Function.comp_apply]
    split <;> rfl

/-- R128, R96: the state of a line that starts before the entries and the MARK follow. -/
def linesStarted (n : LineNo) (s : State) : State :=
  let s1 := s.mapPort n (startedPort s.time.runClock)
  if (s.port n).config.role == .receive then s1 else s1.startSlots n

theorem startLine_eq (n : LineNo) (s : State) :
    s.startLine n =
      let s3 := (linesStarted n s).lineChanged (.started n ((s.port n).config.role == .receive) s.time.runClock)
      if (s.port n).config.role == .receive then s3.placeStartMark n s.now else s3 := rfl

theorem linesStarted_port (n m : LineNo) (s : State) :
    (linesStarted n s).port m = if m = n then startedPort s.time.runClock (s.port n) else s.port m := by
  rw [← port_mapPort_eq, linesStarted]
  split <;> rfl

theorem linesStarted_traffic (n : LineNo) (s : State) : TrafficFrame s (linesStarted n s) := by
  have hport : TrafficFrame s (s.mapPort n (startedPort s.time.runClock)) := trafficFrame_withPort (le_max_right _ _)
  rw [linesStarted]
  split
  · exact hport
  · refine { hport with indices := ?_ }
    simp only [State.startSlots, List.map_map]
    refine fun h => (List.map_congr_left fun slot _ => ?_).symm ▸ h
    simp only [Function.comp_apply]
    split <;> rfl

theorem linesStarted_plan {n : LineNo} {s : State} (hready : (s.port n).state = .ready) (h : s.PlanSound) :
    (linesStarted n s).PlanSound := by
  have hidle : (s.port n).state ≠ .running := by simp [hready]
  rw [linesStarted]
  split
  next hreceive =>
    refine PlanSound_of_eq (s := s) rfl (fun m => ?_) h
    rw [port_mapPort_eq]
    split
    next hm =>
      subst hm
      rw [servesPlan_state hidle]
      simp_all [Port.servesPlan, startedPort, Port.activate]
    next => rfl
  next => exact startSlots_sound hidle h

theorem keeps_startLine {n : LineNo} {s : State} (hready : (s.port n).state = .ready) : Keeps s (s.startLine n) := by
  have hchanged : Keeps s
      ((linesStarted n s).lineChanged (.started n ((s.port n).config.role == .receive) s.time.runClock)) := by
    refine ⟨(linesStarted_traffic n s).keeps.trans (lineChanged_traffic _ _), fun hl m => ?_, fun hp => ?_,
      fun _ ht => ?_⟩
    · rw [lineChanged_port, linesStarted_port]
      split
      · exact startedPort_sound hready (hl n)
      · exact hl m
    · exact PlanSound_of_eq (lineChanged_plan _ _) (fun m => by rw [lineChanged_port]) (linesStarted_plan hready hp)
    · obtain ⟨hfit, hchanges⟩ := (tagsSound_iff s).1 ht
      have hsame : (linesStarted n s).tags = s.tags ∧ (linesStarted n s).lineChanges = s.lineChanges ∧
          (linesStarted n s).busy = s.busy := by
        rw [linesStarted]
        split <;> exact ⟨rfl, rfl, rfl⟩
      obtain ⟨htags, hlater, hbusy⟩ := hsame
      refine lineChanged_tagsSound (now := watched s) (by rw [htags, hlater]; exact hfit)
        (by rw [hbusy, hlater]; exact hchanges) fun line => ?_
      rw [watched, watched, linesStarted_port]
      by_cases hline : line = n
      · subst hline
        refine (changesMonitoring_cons_same (.started line _ _) _ _ _).2
          ⟨watchedPort_state (by simp [hready]), ?_⟩
        simp [ChangesMonitoring, monitoredAfter, watchedPort, startedPort, Port.activate, Bool.beq_eq_decide_eq]
      · rw [if_neg hline]
        exact (changesMonitoring_cons_other (Ne.symm hline) _ _ _).2 rfl
  rw [startLine_eq]
  exact .ite (fun _ => hchanged.trans (keeps_placeStartMark _ _ _)) fun _ => hchanged

/-- R131: the port of a RECEIVE line that stops. -/
def receiverStopped (p : Port) : Port := { p.release with state := .ready }

/-- R131: a RECEIVE line stops at once. -/
theorem keeps_stopReceiving {n : LineNo} {s : State} (hrole : (s.port n).config.role = .receive)
    (hrunning : (s.port n).state = .running) : Keeps s (s.stopReceiving n) := by
  have hport : ∀ m, (s.mapPort n receiverStopped).port m =
      if m = n then receiverStopped (s.port n) else s.port m := fun m => port_mapPort_eq _ _ _ _
  have htraffic : TrafficFrame s (s.mapPort n receiverStopped) := trafficFrame_withPort (le_max_right _ _)
  change Keeps s ((s.mapPort n receiverStopped).lineChanged (.stopped n s.time.runClock))
  refine ⟨htraffic.keeps.trans (lineChanged_traffic _ _), fun hl m => ?_, fun hp => ?_, fun _ ht => ?_⟩
  · rw [lineChanged_port, hport]
    split
    · have hstop := (hl n).stop
      have hoff := (hl n).off
      constructor <;> simp_all [receiverStopped, Port.release, Port.receiverActive, Port.driverActive]
    · exact hl m
  · refine PlanSound_of_eq (s := s) (lineChanged_plan _ _) (fun m => ?_) hp
    rw [lineChanged_port, hport]
    split
    next hm =>
      subst hm
      rw [servesPlan_receive hrole, servesPlan_receive (p := receiverStopped _) hrole]
    next => rfl
  · obtain ⟨hfit, hchanges⟩ := (tagsSound_iff s).1 ht
    refine lineChanged_tagsSound (now := watched s) hfit hchanges fun line => ?_
    rw [watched, watched, hport]
    by_cases hline : line = n
    · subst hline
      exact (changesMonitoring_cons_same (.stopped line _) _ _ _).2
        ⟨by simp [watchedPort, hrole, hrunning, monitoredBefore],
          (by simp [watchedPort, monitoredAfter, ChangesMonitoring, receiverStopped])⟩
    · rw [if_neg hline]
      exact (changesMonitoring_cons_other (Ne.symm hline) _ _ _).2 rfl

theorem startLine_link (n : LineNo) (s : State) : (s.startLine n).link = s.link := by
  have hlink : (linesStarted n s).link = s.link := by
    rw [linesStarted]
    split <;> rfl
  rw [startLine_eq]
  split
  · rw [placeStartMark_link, lineChanged_link, hlink]
  · rw [lineChanged_link, hlink]

theorem stopReceiving_link (n : LineNo) (s : State) : (s.stopReceiving n).link = s.link := by
  rw [State.stopReceiving, lineChanged_link, mapPort_link]

/-- R132: the port of a transmitting line whose stop begins. -/
def stoppingPort (mode : StopMode) (discarded : Nat) (p : Port) : Port :=
  { p with
    state := .stopping
    sendQueue := if mode = .discard then [] else p.sendQueue
    stop := some { mode, discarded } }

theorem stoppingPort_sound {mode : StopMode} {discarded : Nat} {p : Port} (hrole : p.config.role ≠ .receive)
    (hrunning : p.state = .running) (h : p.Sound) : (stoppingPort mode discarded p).Sound := by
  obtain ⟨hoff, hstopping, hfault, hstop, hreceiver, htransmitter, hcomparator⟩ := h
  constructor <;>
    cases hr : p.config.role <;>
    simp_all [stoppingPort, Port.receiverActive, Port.driverActive]

/-- R132: a transmitting line enters STOPPING. -/
theorem keeps_beginStop {n : LineNo} {s : State} (mode : StopMode) (hrole : (s.port n).config.role ≠ .receive)
    (hrunning : (s.port n).state = .running) : Keeps s (s.beginStop n mode) := by
  refine keeps_lineStops (f := stoppingPort mode _) ?_ (stoppingPort_sound hrole hrunning) fun _ => ?_
  · simp only [stoppingPort]
    split
    · exact Nat.zero_le _
    · exact le_max_right _ _
  · rw [watchedPort_role hrole, watchedPort_state (p := stoppingPort _ _ _) nofun]

end Sys2Proof.Proofs
end

section
/-! PROOFS. What every command keeps, fourth part: the Tag Table's work, and the requests of lines, Tag Table, plan and
time base. -/

namespace Sys2Proof.Proofs

-- One theorem after another: elaborating them all at once costs a thread and its stack for each.
set_option Elab.async false

open Sys2Proof.Machine Sys2Proof.Laws

/-! ### The Tag Table's work on an item (R24 to R32) -/

theorem accept_fits {changes : List LineChange} {now : LineNo → Bool} {e : Entry} (item : Item) (moment : Nat)
    (h : EntryFits changes now e) : EntryFits changes now (e.accept item moment) := by
  refine h.restate rfl rfl (fun hlatest => ?_) ?_ ?_
  · simp only [Entry.accept] at hlatest
    split at hlatest
    next hkeep => exact hkeep
    next => cases hlatest
  all_goals cases hf : e.freshness <;> simp [Entry.accept, Freshness.accepted, hf, Freshness.isMonitored]

theorem keeps_noticeFreshAgain (s : State) (e : Entry) (item : Item) : Keeps s (s.noticeFreshAgain e item) := by
  simp only [State.noticeFreshAgain]
  split
  next => exact keeps_queueNotice s _
  all_goals exact .refl s

theorem keeps_route (s : State) (e : Entry) (early : Bool) (item : Item) : Keeps s (s.route e early item) := by
  simp only [State.route]
  have hline : ∀ r, Keeps s (if e.settings.routeLine then s.offer (lineQueue item.line) r else s) := fun r =>
    .ite (fun _ => keeps_offer s _ _) fun _ => .refl s
  exact .ite (fun _ => .refl s) fun _ => .ite (fun _ => (hline _).trans (keeps_offer _ _ _)) fun _ => hline _

theorem keeps_acceptWord {s : State} {e : Entry} (early : Bool) (item : Item) (he : e ∈ s.tags) :
    Keeps s (s.acceptWord e early item) :=
  (((keeps_withEntry he fun _ _ => accept_fits item _).trans (keeps_noticeFreshAgain _ _ _)).trans
    (keeps_route _ _ _ _)).trans (keeps_queueNoticeIf _ _ _)

theorem keeps_processMatched {s : State} {e : Entry} (item : Item) (he : e ∈ s.tags) :
    Keeps s (s.processMatched e item) := by
  simp only [State.processMatched]
  split
  next => exact keeps_acceptWord false item he
  next =>
    have hcounted : Keeps s (s.withEntry { e with early := e.early + 1 }) :=
      keeps_withEntry he fun _ _ h => h.restate rfl rfl h.sound.latest Iff.rfl rfl
    have hnoticed := fun notice => hcounted.trans (keeps_queueNoticeIf _ e.settings.notifyEarly notice)
    split
    · exact hnoticed _
    · refine (hnoticed _).trans (keeps_acceptWord true item ?_)
      rw [queueNoticeIf_tags]
      exact withEntry_mem he rfl

theorem lookup_mem {s : State} {line : LineNo} {tag : Tag} {e : Entry} (h : s.lookup line tag = some e) :
    e ∈ s.tags := by
  rcases Option.or_eq_some_iff.1 h with h | ⟨-, h⟩ <;> exact List.mem_of_find?_eq_some h

theorem keeps_miss (s : State) (item : Item) : Keeps s (s.miss item) := by
  simp only [State.miss]
  have hcounted := keeps_countLine s item.line fun c => { c with misses := c.misses + 1 }
  split
  · exact hcounted
  · exact hcounted.trans (keeps_offer _ _ _)
  · exact hcounted.trans (keeps_offer _ _ _)
  · exact (hcounted.trans (keeps_offer _ _ _)).trans (keeps_offer _ _ _)

theorem keeps_processItem (s : State) (item : Item) : Keeps s (s.processItem item) := by
  simp only [State.processItem]
  split
  · split
    next he => exact keeps_processMatched item (lookup_mem he)
    next => exact keeps_miss s item
  · exact keeps_offer s _ _
  · exact keeps_offer s _ _

theorem keeps_takeItem {s : State} {item : Item} {rest : List Item} (h : s.intake = item :: rest) :
    Keeps s (s.takeItem item rest) := by
  have hrest : rest.length ≤ max 16 s.intake.length := by
    rw [h, List.length_cons]
    omega
  have htaken : ∀ busy, Keeps s { s with intake := rest, busy := some busy } := fun busy =>
    Frame.keeps { intake := hrest }
  exact ((htaken _).trans (keeps_processItem _ _)).trans (keeps_offerStartMarks _ _ _)

/-- R18, R43, R44: the end of the Tag Table's work, when the line changes that waited meet their entries. -/
theorem keeps_workDone {s : State} (busy : Busy) : Keeps s (s.workDone busy) := by
  have hoffered := keeps_offerStartMarks { s with busy := none, lineChanges := [] } busy.item.line busy.item.marks
  have htraffic : KeepsTraffic s (s.workDone busy) :=
    (TrafficFrame.keeps {}).trans (hoffered.toKeepsTraffic.trans (.foldl applyLineChange_traffic _ _))
  have hrest := applyLineChanges_tagsOnly s.lineChanges
    (State.offerStartMarks busy.item.line busy.item.marks { s with busy := none, lineChanges := [] })
  have hport : ∀ n, (s.workDone busy).port n = s.port n := fun n => (hrest.port n).trans (offerStartMarks_port _ _ _ n)
  refine ⟨htraffic, fun hl n => by rw [hport]; exact hl n, PlanSound_of_eq ?_ fun n => by rw [hport], fun _ ht => ?_⟩
  · exact hrest.plan.trans (offerStartMarks_plan _ _ _)
  · obtain ⟨hfit, -⟩ := (tagsSound_iff s).1 ht
    have hwatched : watched (s.workDone busy) = watched s := by
      funext n
      rw [watched, hport, watched]
    have hchanges : (s.workDone busy).lineChanges = [] := hrest.lineChanges.trans (offerStartMarks_lineChanges _ _ _)
    rw [tagsSound_iff, hwatched, hchanges]
    exact ⟨applyLineChanges_fit (by rw [offerStartMarks_tags]; exact hfit), fun _ => rfl⟩

/-! ### Requests of the Tag Table (R34 to R39) -/

theorem optionalMsOf_range {n : Nat} {v : Option Nat} (h : optionalMsOf n = some v) : ∀ ms ∈ v, 1 ≤ ms ∧ ms ≤ 60000 := by
  intro ms hms
  have hv := (optionalMsOf_iff n v).1 h
  cases v with
  | none => cases hms
  | some k =>
    cases hms
    simpa [CarriesMs] using hv.2 _ rfl

theorem entrySettingsOf_inRange {fields : List Byte} {offset : Nat} {t : EntrySettings}
    (h : entrySettingsOf fields offset = some t) : t.InRange := by
  simp only [entrySettingsOf, Option.bind_eq_bind, Option.bind_eq_some_iff, Option.some.injEq] at h
  obtain ⟨_, -, _, -, _, -, _, -, deadline, hdeadline, minInterval, hmin, _, -, _, -, rfl⟩ := h
  exact ⟨optionalMsOf_range hdeadline, optionalMsOf_range hmin⟩

theorem allowedFor_iff (t : EntrySettings) (key : Key) : t.allowedFor key = true ↔ t.Allowed key := by
  cases hl : key.line <;> cases ho : t.onChange <;> simp [EntrySettings.allowedFor, EntrySettings.Allowed, hl, ho]

/-- R19: a key is its place in listing order. -/
theorem rank_inj {a b : Key} (h : a.rank = b.rank) : a = b := by
  obtain ⟨la, ta⟩ := a
  obtain ⟨lb, tb⟩ := b
  have hnumber : ∀ l : KeyLine, l.number ≤ 12 := fun l => by
    cases l with
    | port n => exact Nat.le_of_lt n.isLt
    | any => exact le_refl 12
  simp only [Key.rank] at h
  have hta := ta.isLt
  have htb := tb.isLt
  have htags : ta = tb := BitVec.eq_of_toNat_eq (by omega)
  have hlines : la.number = lb.number := by omega
  have hline : la = lb := by
    cases la <;> cases lb <;> simp only [KeyLine.number] at hlines
    case port.port => exact congrArg _ (Fin.ext hlines)
    case port.any n => exact absurd n.isLt (by omega)
    case any.port n => exact absurd n.isLt (by omega)
    case any.any => rfl
  rw [htags, hline]

theorem insertEntry_perm (e : Entry) (tags : List Entry) : (insertEntry e tags).Perm (e :: tags) := by
  induction tags with
  | nil => exact .refl _
  | cons other rest ih =>
    rw [insertEntry]
    split
    · exact .refl _
    · exact (ih.cons other).trans (.swap _ _ _)

theorem insertEntry_order {e : Entry} {tags : List Entry} (hnew : ∀ other ∈ tags, other.key.rank ≠ e.key.rank)
    (h : tags.Pairwise fun a b => a.key.rank < b.key.rank) :
    (insertEntry e tags).Pairwise fun a b => a.key.rank < b.key.rank := by
  induction tags with
  | nil => exact List.pairwise_singleton _ _
  | cons other rest ih =>
    obtain ⟨hfirst, hrest⟩ := List.pairwise_cons.1 h
    rw [insertEntry]
    split
    next hlt =>
      refine List.pairwise_cons.2 ⟨fun x hx => ?_, h⟩
      rcases List.mem_cons.1 hx with rfl | hx
      · exact hlt
      · exact hlt.trans (hfirst x hx)
    next hge =>
      refine List.pairwise_cons.2 ⟨fun x hx => ?_, ih (fun x hx => hnew x (List.mem_cons_of_mem _ hx)) hrest⟩
      rcases List.mem_cons.1 ((insertEntry_perm e rest).mem_iff.1 hx) with rfl | hx
      · exact lt_of_le_of_ne (Nat.le_of_not_lt hge) (hnew other List.mem_cons_self)
      · exact hfirst x hx

theorem entryOf_none {s : State} {key : Key} (h : (s.entryOf key).isSome = false) : ∀ e ∈ s.tags, e.key ≠ key := by
  simpa [State.entryOf] using h

/-- While no line change waits, an entry of a RUNNING RECEIVE line that holds a deadline is monitored, and no other. -/
theorem fits_of_watched {now : LineNo → Bool} {e : Entry} (hsound : e.Sound)
    (h : ∀ line, e.key.line = .port line → e.settings.deadline ≠ none → e.freshness.isMonitored = now line) :
    EntryFits [] now e :=
  ⟨hsound, fun line _ hline hbefore hpresent => (h line hline hpresent).trans hbefore.symm⟩

theorem monitored_firstFreshness (s : State) (key : Key) (deadline : Option Nat) :
    (s.firstFreshness key deadline = .none ↔ deadline = none) ∧
      ∀ line, key.line = .port line → deadline ≠ none →
        (s.firstFreshness key deadline).isMonitored = watched s line := by
  cases deadline with
  | none => simp [State.firstFreshness]
  | some ms =>
    cases hkey : key.line with
    | any => simp [State.firstFreshness, hkey]
    | port n =>
      have hmonitoring : (s.port n).monitoring = watchedPort (s.port n) := by
        simp [Port.monitoring, watchedPort, beq_eq_decide]
      constructor
      · simp only [State.firstFreshness, hkey]
        split <;> simp
      · rintro line ⟨⟩ -
        cases hw : watchedPort (s.port n) <;>
          simp [State.firstFreshness, hkey, hmonitoring, hw, watched, Freshness.isMonitored]

/-- R33: while the Tag Table is free, no line change waits. -/
theorem lineChanges_of_free {s : State} (hfree : s.tagTableFree = true) (h : s.TagsSound) : s.lineChanges = [] := by
  simp only [State.tagTableFree, Bool.and_eq_true, Option.isNone_iff_eq_none] at hfree
  exact h.changes hfree.1

theorem answerKeeps_addTag (fields : List Byte) (s : State) (hfree : s.tagTableFree = true) :
    AnswerKeeps s (ruleAddTag fields s) := by
  simp only [ruleAddTag]
  split
  next key settings hkey hsettings =>
    split
    · trivial
    next hallowed =>
      split
      · trivial
      next hnew =>
        split
        · trivial
        next hroom =>
          have hperm := insertEntry_perm { key, settings, freshness := s.firstFreshness key settings.deadline } s.tags
          have htraffic : TrafficFrame s { s with
              tags := insertEntry { key, settings, freshness := s.firstFreshness key settings.deadline } s.tags } :=
            { tagCount := by
                simp only [Config.tagEntries, Nat.not_le, ge_iff_le] at hroom
                have hlength := hperm.length_eq
                rw [List.length_cons] at hlength
                exact le_max_of_le_left (by rw [hlength]; exact hroom) }
          refine ⟨⟨htraffic.keeps, id, PlanSound_of_eq rfl fun _ => rfl, fun _ ht => ?_⟩, rfl⟩
          obtain ⟨hfit, hchanges⟩ := (tagsSound_iff s).1 ht
          refine (tagsSound_iff _).2 ⟨⟨fun e he => ?_, ?_, hfit.changes⟩, hchanges⟩
          · rcases List.mem_cons.1 (hperm.mem_iff.1 he) with rfl | he
            · obtain ⟨hnone, hmonitored⟩ := monitored_firstFreshness s key settings.deadline
              obtain ⟨hany, hchange⟩ := (allowedFor_iff settings key).1 (by simpa using hallowed)
              obtain ⟨hdeadline, hmin⟩ := entrySettingsOf_inRange hsettings
              change EntryFits s.lineChanges (watched s) _
              rw [lineChanges_of_free hfree ht]
              exact fits_of_watched ⟨hdeadline, hmin, hany, hchange, nofun, hnone⟩ hmonitored
            · exact hfit.fits e he
          · exact insertEntry_order
              (fun other hother hrank => entryOf_none (by simpa using hnew) other hother (rank_inj hrank)) hfit.order
  · trivial

theorem changedFreshness_none {s : State} {e : Entry} {deadline : Option Nat}
    (h : e.freshness = .none ↔ e.settings.deadline = none) :
    s.changedFreshness e deadline = .none ↔ deadline = none := by
  simp only [State.changedFreshness]
  split
  next heq => rw [h, heq]
  next =>
    split <;> simp [(monitored_firstFreshness s e.key _).1]

/-- R50: a changed deadline leaves an entry monitored or not as its line gives. -/
theorem changedFreshness_monitored {s : State} {e : Entry} {deadline : Option Nat} {line : LineNo}
    (hline : e.key.line = .port line) (hnone : e.freshness = .none ↔ e.settings.deadline = none)
    (h : e.settings.deadline ≠ none → e.freshness.isMonitored = watched s line) (hpresent : deadline ≠ none) :
    (s.changedFreshness e deadline).isMonitored = watched s line := by
  simp only [State.changedFreshness]
  split
  next heq => exact h (heq ▸ hpresent)
  next =>
    obtain ⟨ms, rfl⟩ := Option.ne_none_iff_exists'.1 hpresent
    cases hf : e.freshness
    case none => exact (monitored_firstFreshness s e.key _).2 line hline hpresent
    all_goals
      rw [hf] at hnone h
      exact h fun hd => nomatch hnone.2 hd

theorem keeps_changeEntry {s : State} {e : Entry} {settings : EntrySettings} (hfree : s.tagTableFree = true)
    (he : e ∈ s.tags) (hrange : settings.InRange) (hallowed : settings.Allowed e.key) :
    Keeps s (s.withEntry { e with
      settings
      latest := if settings.keepLatest then e.latest else none
      freshness := s.changedFreshness e settings.deadline }) := by
  refine keeps_withEntry_fits fun ht => ?_
  have hchanges := lineChanges_of_free hfree ht
  have hfits := ((tagsSound_iff s).1 ht).1.fits e he
  rw [hchanges] at hfits ⊢
  have hfreshness := hfits.sound.freshness
  refine fits_of_watched ⟨hrange.deadline, hrange.minInterval, hallowed.1, hallowed.2, fun hlatest => ?_,
    changedFreshness_none hfreshness⟩ fun line hline hpresent => ?_
  · simp only at hlatest
    split at hlatest
    next hkeep => exact hkeep
    next => cases hlatest
  · exact changedFreshness_monitored hline hfreshness (hfits.monitored line _ hline rfl) hpresent

theorem entryOf_mem {s : State} {key : Key} {e : Entry} (h : s.entryOf key = some e) : e ∈ s.tags ∧ e.key = key :=
  ⟨List.mem_of_find?_eq_some h, by simpa using List.find?_some h⟩

theorem answerKeeps_changeTag (fields : List Byte) (s : State) (hfree : s.tagTableFree = true) :
    AnswerKeeps s (ruleChangeTag fields s) := by
  simp only [ruleChangeTag]
  split
  next key settings hkey hsettings =>
    split
    · trivial
    next hallowed =>
      split
      · trivial
      next e he =>
        obtain ⟨hmem, rfl⟩ := entryOf_mem he
        exact ⟨keeps_changeEntry hfree hmem (entrySettingsOf_inRange hsettings)
          ((allowedFor_iff settings e.key).1 (by simpa using hallowed)), rfl⟩
  · trivial

/-- Entries that leave the table take nothing of the others with them. -/
theorem keeps_fewerTags {s : State} {tags : List Entry} (h : tags.Sublist s.tags) : Keeps s { s with tags } where
  toKeepsTraffic := TrafficFrame.keeps { tagCount := le_max_of_le_right h.length_le }
  lines hl := hl
  plan := PlanSound_of_eq rfl fun _ => rfl
  tags _ ht := by
    obtain ⟨hfit, hchanges⟩ := (tagsSound_iff s).1 ht
    exact (tagsSound_iff _).2 ⟨⟨fun e he => hfit.fits e (h.subset he), hfit.order.sublist h, hfit.changes⟩, hchanges⟩

theorem answerKeeps_removeTag (fields : List Byte) (s : State) : AnswerKeeps s (ruleRemoveTag fields s) := by
  simp only [ruleRemoveTag]
  split
  · trivial
  · split
    · exact ⟨keeps_fewerTags List.filter_sublist, rfl⟩
    · trivial

theorem answerKeeps_clearTags (fields : List Byte) (s : State) : AnswerKeeps s (ruleClearTags fields s) := by
  simp only [ruleClearTags]
  split
  · trivial
  · exact ⟨keeps_fewerTags List.filter_sublist, rfl⟩

theorem answerKeeps_readTag (fields : List Byte) (s : State) : AnswerKeeps s (ruleReadTag fields s) := by
  simp only [ruleReadTag]
  split
  · split
    · trivial
    next e he =>
      refine ⟨.ite (fun _ => keeps_withEntry (entryOf_mem he).1 fun _ _ h =>
        h.restate rfl rfl h.sound.latest Iff.rfl rfl) fun _ => .refl s, ?_⟩
      split <;> rfl
  · trivial

theorem answerKeeps_listTags (fields : List Byte) (s : State) : AnswerKeeps s (ruleListTags fields s) := by
  simp only [ruleListTags]
  split
  · trivial
  · split
    · trivial
    · exact ⟨.refl s, rfl⟩

/-! ### Requests of the plan and the send queues (R102, R108 to R113) -/

theorem numberAt_lt (fields : List Byte) (offset length : Nat) : numberAt fields offset length < 256 ^ length :=
  (fromBytes_lt _).trans_le (Nat.pow_le_pow_right (by omega) (List.length_take_le _ _))

theorem slotSettingsOf_inRange {fields : List Byte} {offset : Nat} {t : SlotSettings}
    (h : slotSettingsOf fields offset = some t) : (5 ≤ t.period ∧ t.period ≤ 65535) ∧ t.phase < t.period := by
  simp only [slotSettingsOf, Option.bind_eq_bind, Option.bind_eq_some_iff] at h
  obtain ⟨_, -, _, -, _, -, _, -, _, -, h⟩ := h
  split at h
  next hrange =>
    cases h
    have hperiod := numberAt_lt fields (offset + 5) 2
    exact ⟨⟨hrange.1, Nat.le_of_lt_succ hperiod⟩, hrange.2⟩
  next => cases h

theorem joinGrid_canComeDue {s : State} {line : LineNo} {settings : SlotSettings}
    (h : (s.joinGrid line settings).isSome = true) : s.canComeDue line settings = true := by
  rw [State.joinGrid] at h
  split at h
  next hcan => exact hcan
  next => cases h

theorem insertSlot_perm (slot : Slot) (plan : List Slot) : (insertSlot slot plan).Perm (slot :: plan) := by
  induction plan with
  | nil => exact .refl _
  | cons other rest ih =>
    rw [insertSlot]
    split
    · exact .refl _
    · exact (ih.cons other).trans (.swap _ _ _)

theorem insertSlot_order {slot : Slot} {plan : List Slot} (hnew : ∀ other ∈ plan, other.index ≠ slot.index)
    (h : plan.Pairwise fun a b => a.index < b.index) : (insertSlot slot plan).Pairwise fun a b => a.index < b.index := by
  induction plan with
  | nil => exact List.pairwise_singleton _ _
  | cons other rest ih =>
    obtain ⟨hfirst, hrest⟩ := List.pairwise_cons.1 h
    rw [insertSlot]
    split
    next hlt =>
      refine List.pairwise_cons.2 ⟨fun x hx => ?_, h⟩
      rcases List.mem_cons.1 hx with rfl | hx
      · exact hlt
      · exact hlt.trans (hfirst x hx)
    next hge =>
      refine List.pairwise_cons.2 ⟨fun x hx => ?_, ih (fun x hx => hnew x (List.mem_cons_of_mem _ hx)) hrest⟩
      rcases List.mem_cons.1 ((insertSlot_perm slot rest).mem_iff.1 hx) with rfl | hx
      · exact lt_of_le_of_ne (not_lt.1 hge) (hnew other List.mem_cons_self)
      · exact hfirst x hx

/-- A sound slot enters the plan under a free index. -/
theorem keeps_insertSlot {s : State} {slot : Slot} (hnew : ∀ other ∈ s.plan, other.index ≠ slot.index)
    (hslot : slot.Sound s) : Keeps s { s with plan := insertSlot slot s.plan } where
  toKeepsTraffic := TrafficFrame.keeps
    { indices := fun h => by
        refine (((insertSlot_perm slot s.plan).map Slot.index).nodup_iff).2 (List.nodup_cons.2 ⟨?_, h⟩)
        simpa using hnew }
  lines hl := hl
  plan h := by
    refine ⟨fun other hother => ?_, insertSlot_order hnew h.order⟩
    suffices hsound : Slot.Sound s other from
      ⟨hsound.period, hsound.phase, hsound.limit, hsound.due, hsound.pending⟩
    rcases List.mem_cons.1 ((insertSlot_perm slot s.plan).mem_iff.1 hother) with rfl | hother
    · exact hslot
    · exact h.slots other hother
  tags _ := TagsSound_of_eq rfl rfl id rfl

theorem answerKeeps_addSlot (fields : List Byte) (s : State) : AnswerKeeps s (ruleAddSlot fields s) := by
  simp only [ruleAddSlot]
  split
  next index line settings _ _ hsettings =>
    split
    · trivial
    next hnew =>
      obtain ⟨hperiod, hphase⟩ := slotSettingsOf_inRange hsettings
      refine ⟨keeps_insertSlot ?_ ⟨hperiod, hphase, rfl, joinGrid_canComeDue, nofun⟩, rfl⟩
      simpa [State.slotAt] using hnew
  · trivial

theorem remainingAfter_isSome {slot : Slot} (settings : SlotSettings)
    (h : slot.remaining.isSome = slot.settings.limit.isSome) :
    (slot.remainingAfter settings).isSome = settings.limit.isSome := by
  simp only [Slot.remainingAfter]
  split
  · rfl
  next hlimit =>
    split
    · rfl
    · rw [h, not_not.1 hlimit]

/-- R109, R110: a changed slot is sound: what it keeps of due times came from a line that serves the plan. -/
theorem change_sound {s : State} {slot : Slot} {settings : SlotSettings}
    (hrange : (5 ≤ settings.period ∧ settings.period ≤ 65535) ∧ settings.phase < settings.period)
    (h : slot.Sound s) : (slot.change settings (s.joinGrid slot.line settings)).Sound s := by
  have hserves : s.canComeDue slot.line slot.settings = true → settings.enabled = true →
      s.canComeDue slot.line settings = true := by
    simp only [State.canComeDue, Bool.and_eq_true]
    exact fun hcan henabled => ⟨henabled, hcan.2⟩
  refine ⟨hrange.1, hrange.2, remainingAfter_isSome settings h.limit, fun hdue => ?_, fun hpending => ?_⟩
  · simp only [Slot.change] at hdue
    split at hdue
    · cases hdue
    next henabled =>
      split at hdue
      · exact joinGrid_canComeDue hdue
      · exact hserves (h.due hdue) (by simpa using henabled)
  · simp only [Slot.change] at hpending
    split at hpending
    next henabled => exact hserves (h.pending hpending) henabled
    next => cases hpending

theorem answerKeeps_changeSlot (fields : List Byte) (s : State) : AnswerKeeps s (ruleChangeSlot fields s) := by
  simp only [ruleChangeSlot]
  split
  next hsettings =>
    split
    next slot hslot =>
      exact ⟨keeps_withSlot fun hp => change_sound (slotSettingsOf_inRange hsettings) (hp.slots slot (slotAt_mem hslot)),
        rfl⟩
    · trivial
  · trivial

theorem answerKeeps_setValue (fields : List Byte) (s : State) : AnswerKeeps s (ruleSetValue fields s) := by
  simp only [ruleSetValue]
  split
  · split
    next slot hslot =>
      refine ⟨keeps_withSlot fun hp => ?_, rfl⟩
      obtain ⟨hperiod, hphase, hlimit, hdue, hpending⟩ := hp.slots slot (slotAt_mem hslot)
      exact ⟨hperiod, hphase, hlimit, hdue, hpending⟩
    · trivial
  · trivial

theorem keeps_fewerSlots {s : State} {plan : List Slot} (h : plan.Sublist s.plan) : Keeps s { s with plan } where
  toKeepsTraffic := TrafficFrame.keeps { indices := fun hn => hn.sublist (h.map Slot.index) }
  lines hl := hl
  plan hp := ⟨fun slot hslot => by
    obtain ⟨hperiod, hphase, hlimit, hdue, hpending⟩ := hp.slots slot (h.subset hslot)
    exact ⟨hperiod, hphase, hlimit, hdue, hpending⟩, hp.order.sublist h⟩
  tags _ := TagsSound_of_eq rfl rfl id rfl

theorem answerKeeps_removeSlot (fields : List Byte) (s : State) : AnswerKeeps s (ruleRemoveSlot fields s) := by
  simp only [ruleRemoveSlot]
  split
  · split
    · exact ⟨keeps_fewerSlots List.filter_sublist, rfl⟩
    · trivial
  · trivial

theorem answerKeeps_readSlot (fields : List Byte) (s : State) : AnswerKeeps s (ruleReadSlot fields s) := by
  simp only [ruleReadSlot]
  split
  · split
    next slot hslot =>
      refine ⟨.ite (fun _ => keeps_withSlot fun hp => ?_) fun _ => .refl s, by split <;> rfl⟩
      obtain ⟨hperiod, hphase, hlimit, hdue, hpending⟩ := hp.slots slot (slotAt_mem hslot)
      exact ⟨hperiod, hphase, hlimit, hdue, hpending⟩
    · trivial
  · trivial

theorem sendWordsOf_length {places : List Byte} {count : Nat} {words : List OneOff}
    (h : sendWordsOf places count = some words) : words.length = count := by
  induction count generalizing places words with
  | zero => cases h; rfl
  | succ count ih =>
    simp only [sendWordsOf, Option.bind_eq_bind, Option.bind_eq_some_iff] at h
    obtain ⟨tag, -, rest, hrest, h⟩ := h
    cases h
    rw [List.length_cons, ih hrest]

theorem answerKeeps_send (fields : List Byte) (s : State) : AnswerKeeps s (ruleSend fields s) := by
  simp only [ruleSend]
  split
  next line words _ hwords =>
    split
    · trivial
    split
    · trivial
    split
    · trivial
    split
    · trivial
    next hroom =>
      refine ⟨keeps_withPort suits_of_use ?_, rfl⟩
      simp only [Config.sendQueueWords, gt_iff_lt, Nat.not_lt] at hroom
      simp only [List.length_append, sendWordsOf_length hwords]
      omega
  · trivial

/-! ### Requests of the lines (R123, R126 to R135) -/

theorem configure_sound {p : Port} (config : LineConfig) (hstate : p.state = .off ∨ p.state = .ready) (h : p.Sound) :
    (p.configure config).Sound := by
  obtain ⟨hoff, hstopping, hfault, hstop, hreceiver, htransmitter, hcomparator⟩ := h
  cases hr : config.role <;> rcases hstate with hstate | hstate <;> constructor <;>
    simp_all [Port.configure, Port.receiverActive, Port.driverActive]

theorem configure_idle (p : Port) (config : LineConfig) : (p.configure config).state ≠ .running := by
  simp only [Port.configure]
  split <;> nofun

theorem answerKeeps_configureLine (fields : List Byte) (s : State) : AnswerKeeps s (ruleConfigureLine fields s) := by
  simp only [ruleConfigureLine]
  split
  next n config _ _ =>
    split
    · trivial
    next hrefused =>
      have hstate : (s.port n).state = .off ∨ (s.port n).state = .ready := by
        by_contra hother
        exact hrefused (not_or.1 hother)
      have hidle : (s.port n).state ≠ .running := by rcases hstate with h | h <;> simp [h]
      refine ⟨keeps_lineIdle (f := Port.configure config) ?_ (configure_sound config hstate) ?_ fun _ => ?_, rfl⟩
      · simp only [Port.configure]
        split
        · exact Nat.zero_le _
        · exact le_max_right _ _
      · rw [servesPlan_state hidle, servesPlan_state (configure_idle _ _)]
      · rw [watchedPort_state hidle, watchedPort_state (configure_idle _ _)]
  · trivial

theorem answerKeeps_startLine (fields : List Byte) (s : State) : AnswerKeeps s (ruleStartLine fields s) := by
  simp only [ruleStartLine]
  split
  · trivial
  · split
    · trivial
    next hready => exact ⟨keeps_startLine (not_not.1 hready), startLine_link _ s⟩

theorem answerKeeps_stopLine (fields : List Byte) (s : State) : AnswerKeeps s (ruleStopLine fields s) := by
  simp only [ruleStopLine]
  split
  next n mode _ _ =>
    split
    · trivial
    · trivial
    · exact ⟨.refl s, rfl⟩
    · exact ⟨.refl s, rfl⟩
    next hrunning =>
      split
      next hrole => exact ⟨keeps_stopReceiving hrole hrunning, stopReceiving_link n s⟩
      next hrole =>
        have hbegun := keeps_beginStop mode hrole hrunning
        have hport : (s.beginStop n mode).port n = stoppingPort mode
            (if mode = .discard then (s.port n).sendQueue.length else 0) (s.port n) := by
          rw [State.beginStop, stopSlots_port, port_mapPort]
          rfl
        split
        · refine ⟨hbegun.trans (keeps_lineIdle (f := fun p => stopped .ready p.release) (le_max_right _ _)
            (fun h => sound_ready ?_) ?_ fun _ => ?_), rfl⟩
          · rw [ne_eq, ← h.off, hport]
            nofun
          · rw [servesPlan_state (p := stopped .ready _) nofun, servesPlan_state (by rw [hport]; nofun)]
          · rw [watchedPort_state (p := stopped .ready _) nofun, watchedPort_state (by rw [hport]; nofun)]
        · exact ⟨hbegun, rfl⟩
  · trivial

theorem answerKeeps_readLine (fields : List Byte) (s : State) : AnswerKeeps s (ruleReadLine fields s) := by
  simp only [ruleReadLine]
  split
  · exact ⟨.ite (fun _ => keeps_mapPort suits_of_use (le_max_right _ _)) fun _ => .refl s, by split <;> rfl⟩
  · trivial

theorem answerKeeps_clearFault (fields : List Byte) (s : State) : AnswerKeeps s (ruleClearFault fields s) := by
  simp only [ruleClearFault]
  split
  · trivial
  · split
    · trivial
    next n _ hfault =>
      have hstate : (s.port n).state = .fault := not_not.1 hfault
      refine ⟨keeps_lineIdle (le_max_right _ _) (fun h => ?_) ?_ fun _ => ?_, rfl⟩
      · obtain ⟨hoff, hstopping, hrole, hstop, hreceiver, htransmitter, hcomparator⟩ := h
        constructor <;> simp_all [Port.receiverActive, Port.driverActive]
      · rw [servesPlan_state (by nofun), servesPlan_state (by simp [hstate])]
      · rw [watchedPort_state (by nofun), watchedPort_state (by simp [hstate])]

/-! ### Requests of the time base (R85 to R92) -/

theorem answerKeeps_setTime (fields : List Byte) (s : State) : AnswerKeeps s (ruleSetTime fields s) := by
  simp only [ruleSetTime]
  split
  · trivial
  · exact ⟨keeps_load s _ _, load_link _ _ _⟩

theorem answerKeeps_armTime (fields : List Byte) (s : State) : AnswerKeeps s (ruleArmTime fields s) := by
  simp only [ruleArmTime]
  split
  · trivial
  · exact ⟨keeps_time s _, rfl⟩

theorem answerKeeps_setPulseNotice (fields : List Byte) (s : State) : AnswerKeeps s (ruleSetPulseNotice fields s) := by
  simp only [ruleSetPulseNotice]
  split
  · trivial
  · exact ⟨keeps_time s _, rfl⟩

theorem keeps_alignedLoad (s : State) : Keeps s s.alignedLoad := by
  rw [State.alignedLoad]
  split
  · exact .refl s
  · exact ((keeps_load s _ _).trans (keeps_queueNotice _ _)).trans (keeps_time _ _)

theorem keeps_takeEdge (s : State) : Keeps s s.takeEdge :=
  ((keeps_alignedLoad s).trans (keeps_queueNoticeIf _ _ _)).trans (keeps_time _ _)

theorem keeps_expireArm (s : State) : Keeps s s.expireArm := by
  rw [State.expireArm]
  split
  · exact .refl s
  · exact (keeps_time s _).trans (keeps_queueNotice _ _)

end Sys2Proof.Proofs
end

section
/-! PROOFS. What every command keeps, fifth part: the queue requests, the report unit, the link transmitter and the
resets. -/

namespace Sys2Proof.Proofs

-- One theorem after another: elaborating them all at once costs a thread and its stack for each.
set_option Elab.async false

open Sys2Proof.Machine Sys2Proof.Laws

/-- What the report unit and the queues do to the other parts: nothing. -/
structure ReportsOnly (s t : State) : Prop where
  ports : t.ports = s.ports := by rfl
  intake : t.intake = s.intake := by rfl
  busy : t.busy = s.busy := by rfl
  lineChanges : t.lineChanges = s.lineChanges := by rfl
  tags : t.tags = s.tags := by rfl
  plan : t.plan = s.plan := by rfl
  pending : t.pending = s.pending := by rfl
  link : LinkWithin s.link → LinkWithin t.link := by exact id

/-- A change of the report unit and the queues keeps what it keeps of these. -/
theorem ReportsOnly.keeps {s t : State} (h : ReportsOnly s t) (hqueues : s.QueuesSound → t.QueuesSound)
    (hwithin : ReportsWithin s.reports → ReportsWithin t.reports) (hwindow : s.WindowSound → t.WindowSound) :
    Keeps s t := by
  have hport : ∀ n, t.port n = s.port n := fun n => by simp [State.port, h.ports]
  have hwatched : watched t = watched s := by
    funext n
    rw [watched, hport, watched]
  refine ⟨⟨hqueues, fun hb => ?_, hwindow, h.pending⟩, fun hl n => by rw [hport]; exact hl n,
    PlanSound_of_eq h.plan fun n => by rw [hport],
    fun _ => TagsSound_of_eq h.tags h.lineChanges (fun hnone => h.busy ▸ hnone) hwatched⟩
  obtain ⟨hs, hl, hr⟩ := (bounded_iff s).1 hb
  refine (bounded_iff t).2 ⟨⟨?_, ?_, ?_, fun n => ?_⟩, h.link hl, hwithin hr⟩
  · rw [h.intake]; exact hs.intake
  · rw [h.tags]; exact hs.tags
  · rw [h.plan]; exact hs.slots
  · rw [hport]; exact hs.sendQueues n

/-! ### SET_QUEUE and READ_QUEUE (R75, R77) -/

/-- R75: the depths of the twelve line queues are that of one and those of the other eleven. -/
theorem depths_split (s : State) (line : LineNo) :
    ((List.finRange 12).map fun m => (s.queue (lineQueue m)).depth).sum =
      (s.queue (lineQueue line)).depth + s.otherDepths (lineQueue line) := by
  have hinj : ∀ m : LineNo, lineQueue m ≠ lineQueue line ↔ m ≠ line := fun m => by
    simp [lineQueue]
  simp only [State.otherDepths, hinj]
  rw [← List.sum_map_erase (fun m => (s.queue (lineQueue m)).depth) (List.mem_finRange line),
    (List.nodup_finRange 12).erase_eq_filter]
  simp [bne, beq_eq_decide]

/-- Where a queue of a line takes another depth that fits beside the others, the pool is kept. -/
theorem withQueue_sound_depth {s : State} {n : QueueNo} {q : CaptureQueue} (hq : q.Sound) (hn : n ≠ mergedQueue)
    (hfits : s.otherDepths n + q.depth ≤ 8192) (h : s.QueuesSound) : (s.withQueue n q).QueuesSound := by
  obtain ⟨line, rfl⟩ : ∃ line, n = lineQueue line := by
    have hlt : n.val < 12 := lt_of_le_of_ne (Nat.le_of_lt_succ n.isLt) fun heq => hn (Fin.ext heq)
    exact ⟨⟨n.val, hlt⟩, rfl⟩
  refine ⟨fun m => ?_, fun m => ?_, ?_, by rw [queue_withQueue_ne _ _ _ _ hn.symm]; exact h.merged⟩
  · rw [queue_withQueue_eq]
    split
    · exact hq
    · exact h.queues m
  · by_cases hm : m = lineQueue line
    · subst hm
      obtain ⟨hbatch, hhold, hflush, -⟩ := h.streams (lineQueue line)
      rw [stream_withQueue, queue_withQueue]
      exact ⟨hbatch, hhold, hflush, holdStartAfter_isSome _ _ _⟩
    · rw [stream_withQueue_ne _ _ _ _ hm, queue_withQueue_ne _ _ _ _ hm]
      exact h.streams m
  · have hothers : (s.withQueue (lineQueue line) q).otherDepths (lineQueue line) = s.otherDepths (lineQueue line) := by
      simp only [State.otherDepths]
      refine congrArg List.sum (List.map_congr_left fun m hm => ?_)
      rw [queue_withQueue_ne _ _ _ _ (by simpa using (List.mem_filter.1 hm).2)]
    rw [depths_split, hothers, queue_withQueue]
    omega

/-- R76: a queue whose depth changed is sound: what it held is lost. -/
theorem resize_sound {q : CaptureQueue} (depth : Nat) (policy : QueuePolicy) (h : q.Sound) :
    (q.resize depth policy).Sound := by
  refine ⟨?_, Nat.zero_le _, Nat.zero_le _, Nat.min_le_left _ _⟩
  simp only [CaptureQueue.resize, CaptureQueue.lose, h.accounted, List.length_nil, show BitVec.ofNat 32 0 = 0 from rfl]
  ring

theorem keeps_resize {s : State} {n : QueueNo} (depth : Nat) (policy : QueuePolicy) (hn : n ≠ mergedQueue)
    (hflight : (s.queue n).inFlight = 0) (hfits : s.otherDepths n + depth ≤ 8192) :
    Keeps s (s.withQueue n ((s.queue n).resize depth policy)) :=
  ReportsOnly.keeps {} (fun h => withQueue_sound_depth (resize_sound depth policy (h.queues n)) hn hfits h)
    (withQueue_reportsWithin n _) (withQueue_window hflight.symm)

theorem answerKeeps_setQueue (fields : List Byte) (s : State) : AnswerKeeps s (ruleSetQueue fields s) := by
  simp only [ruleSetQueue]
  split
  next n policy _ _ =>
    split
    · exact ⟨keeps_withQueue (fun h => ⟨h.accounted, h.fits, h.run, h.loss⟩) rfl rfl, rfl⟩
    split
    · trivial
    split
    · trivial
    next hn =>
      split
      · trivial
      split
      · trivial
      next hflight =>
        split
        · trivial
        next hfits =>
          exact ⟨keeps_resize _ _ hn (Nat.eq_zero_of_not_pos hflight) (not_lt.1 hfits), rfl⟩
  · trivial

theorem answerKeeps_readQueue (fields : List Byte) (s : State) : AnswerKeeps s (ruleReadQueue fields s) := by
  simp only [ruleReadQueue]
  split
  · split
    · exact ⟨.refl s, rfl⟩
    · split
      · trivial
      next hempty =>
        have hnone := not_not.1 hempty
        exact ⟨keeps_withQueue (fun h => ⟨by simp [hnone], h.fits, h.run, h.loss⟩) rfl rfl, rfl⟩
  · trivial

/-! ### Requests of the report unit (R158, R159, R168) -/

theorem answerKeeps_subscribe (fields : List Byte) (s : State) : AnswerKeeps s (ruleSubscribe fields s) := by
  simp only [ruleSubscribe]
  split
  · trivial
  · split
    · trivial
    next hrange =>
      refine ⟨keeps_withStream (fun h => ⟨⟨?_, ?_⟩, ?_, fun _ => rfl, h.news⟩) fun _ => ?_, rfl⟩
      all_goals
        simp only
        omega

theorem answerKeeps_unsubscribe (fields : List Byte) (s : State) : AnswerKeeps s (ruleUnsubscribe fields s) := by
  simp only [ruleUnsubscribe]
  split
  · trivial
  · exact ⟨keeps_withStream (fun h => ⟨h.batch, h.hold, nofun, h.news⟩) id, rfl⟩

/-- R159: a subscribed stream takes a pending flush. -/
theorem keeps_flushStreams (named : List QueueNo) (s : State) : Keeps s (s.flushStreams named) := by
  have hmarks : ∀ (l : List QueueNo) (s : State), (∀ n ∈ l, (s.stream n).subscribed = true) →
      Keeps s (l.foldl (fun s n => s.withStream n { s.stream n with flushPending := true }) s) := by
    intro l
    induction l with
    | nil => exact fun s _ => .refl s
    | cons n rest ih =>
      intro s h
      refine Keeps.trans (keeps_withStream (t := { s.stream n with flushPending := true })
        (fun hs => ⟨hs.batch, hs.hold, fun _ => h n List.mem_cons_self, hs.news⟩) id) (ih _ fun m hm => ?_)
      rw [stream_withStream_eq]
      split
      · exact h n List.mem_cons_self
      · exact h m (List.mem_cons_of_mem _ hm)
  refine hmarks _ s fun n hn => ?_
  have hflushable : s.flushable n = true := (List.mem_filter.1 hn).2
  simp only [State.flushable, Bool.and_eq_true] at hflushable
  exact hflushable.1

theorem flushStreams_link (named : List QueueNo) (s : State) : (s.flushStreams named).link = s.link := by
  rw [State.flushStreams]
  generalize named.filter s.flushable = l
  induction l generalizing s with
  | nil => rfl
  | cons n rest ih => exact ih _

theorem answerKeeps_flush (fields : List Byte) (s : State) : AnswerKeeps s (ruleFlush fields s) := by
  simp only [ruleFlush]
  split
  · exact ⟨keeps_flushStreams _ s, flushStreams_link _ s⟩
  · split
    · trivial
    · split
      · trivial
      · exact ⟨keeps_flushStreams _ s, flushStreams_link _ s⟩

theorem markAll_seq (due : Bool) (window : List Report) : (markAll due window).map Report.seq = window.map Report.seq := by
  simp [markAll]

theorem markAll_within {due : Bool} {r r' : ReportUnit} (hwindow : r'.window = markAll due r.window)
    (hnotices : r'.notices = r.notices) (hloss : r'.noticeLoss = r.noticeLoss) (hstreams : r'.streams = r.streams)
    (h : ReportsWithin r) : ReportsWithin r' := by
  refine ⟨by rw [hnotices]; exact h.notices, by rw [hloss]; exact h.noticeLoss, ?_, ?_, ?_⟩
  · rw [hwindow, markAll, List.length_map]
    exact h.window
  · rw [hstreams]
    exact h.batches
  · rw [hwindow]
    intro report hreport
    obtain ⟨old, hold, rfl⟩ := List.mem_map.1 hreport
    exact h.contents old hold

/-- The records that reports hold are a matter of their contents. -/
theorem olderCount_markAll (n : QueueNo) (due : Bool) (window : List Report) :
    olderCount n (markAll due window) = olderCount n window := by
  simp only [olderCount, markAll, List.map_map]
  rfl

/-- A window all of whose reports are made due, or none, is sound with a stopped timer where the reports may be due. -/
theorem markAll_window {s : State} {due : Bool} {r : ReportUnit} (hwindow : r.window = markAll due s.reports.window)
    (hseq : r.nextSeq = s.reports.nextSeq) (hdue : r.state ≠ .active → due = false)
    (htimer : s.WindowSound → r.timer = none) (hretries : s.WindowSound → r.retries ≤ r.retryLimit)
    (hlimit : s.WindowSound → 1 ≤ r.retryLimit ∧ r.retryLimit ≤ 8)
    (htimeout : s.WindowSound → 10 ≤ r.timeout ∧ r.timeout ≤ 2000) (h : s.WindowSound) :
    { s with reports := r }.WindowSound where
  seqs := by
    change r.window.map Report.seq = seqsBefore r.nextSeq r.window.length
    rw [hwindow, hseq, markAll_seq, markAll, List.length_map]
    exact h.seqs
  due hstate := by
    change ∀ report ∈ r.window, report.due = false
    rw [hwindow]
    intro report hreport
    obtain ⟨old, -, rfl⟩ := List.mem_map.1 hreport
    exact hdue hstate
  timer hsome := by
    change r.timer.isSome = true at hsome
    rw [htimer h] at hsome
    cases hsome
  retries := hretries h
  limit := hlimit h
  timeout := htimeout h
  inFlight n := by
    change (s.queue n).inFlight = olderCount n r.window
    rw [hwindow, olderCount_markAll]
    exact h.inFlight n

/-- A change of the report unit that keeps the streams keeps every queue and stream. -/
theorem reports_queues {s : State} {r : ReportUnit} (h : r.streams = s.reports.streams) :
    s.QueuesSound → { s with reports := r }.QueuesSound :=
  QueuesSound_of_eq (fun _ => rfl) fun n => by simp [State.stream, h]

theorem answerKeeps_startReports (fields : List Byte) (s : State) : AnswerKeeps s (ruleStartReports fields s) := by
  simp only [ruleStartReports]
  split
  · trivial
  next hrange =>
    split
    · trivial
    next hsilent =>
      have hstate : s.reports.state = .silent := not_not.1 hsilent
      refine ⟨ReportsOnly.keeps {} (reports_queues rfl) (markAll_within rfl rfl rfl rfl)
        (markAll_window rfl rfl (fun hactive => absurd rfl hactive) (fun h => ?_) (fun _ => Nat.zero_le _) (fun _ => ?_)
          fun _ => ?_), rfl⟩
      · cases htimer : s.reports.timer with
        | none => rfl
        | some t =>
          have hactive := (h.timer (by simp [htimer])).1
          rw [hstate] at hactive
          cases hactive
      all_goals
        simp only
        omega

theorem answerKeeps_stopReports (fields : List Byte) (s : State) : AnswerKeeps s (ruleStopReports fields s) :=
  ⟨ReportsOnly.keeps {} (reports_queues rfl) (markAll_within rfl rfl rfl rfl)
    (markAll_window rfl rfl (fun _ => rfl) (fun _ => rfl) (fun h => h.retries) (fun h => h.limit) fun h => h.timeout),
    rfl⟩

/-- R166: the retransmission timer runs out. -/
theorem keeps_timeOut {s : State} (hdue : s.retransmitDue = true) :
    Keeps s { s with reports := s.reports.timeOut } := by
  have hactive : s.reports.state = .active := by
    simp only [State.retransmitDue, Bool.and_eq_true, beq_iff_eq] at hdue
    exact hdue.1
  rw [ReportUnit.timeOut]
  split
  next hretries =>
    exact ReportsOnly.keeps {} (reports_queues rfl) (markAll_within rfl rfl rfl rfl)
      (markAll_window rfl rfl (fun hstate => absurd hactive hstate) (fun _ => rfl) (fun _ => hretries)
        (fun h => h.limit) fun h => h.timeout)
  next =>
    exact ReportsOnly.keeps {} (reports_queues rfl) (markAll_within rfl rfl rfl rfl)
      (markAll_window rfl rfl (fun _ => rfl) (fun _ => rfl) (fun h => h.retries) (fun h => h.limit) fun h => h.timeout)

/-! ### Formation (R160 to R162) -/

theorem seqsBefore_succ (next : Byte) (length : Nat) :
    seqsBefore (next + 1) (length + 1) = seqsBefore next length ++ [next] := by
  have hsub : ∀ x : Byte, next + 1 - (x + 1) = next - x := fun x => by ring
  simp only [seqsBefore, List.range_succ, List.map_append, List.map_singleton]
  refine congrArg₂ _ (List.map_congr_left fun i hi => ?_) ?_
  · rw [Nat.sub_add_comm (Nat.le_of_lt (List.mem_range.1 hi)), BitVec.ofNat_add]
    exact hsub _
  · rw [Nat.add_sub_cancel_left]
    simp

theorem seqsBefore_drop (next : Byte) (length k : Nat) :
    (seqsBefore next length).drop k = seqsBefore next (length - k) := by
  refine List.ext_getElem (by simp [seqsBefore]) fun i h1 h2 => ?_
  simp only [seqsBefore, List.getElem_drop, List.getElem_map, List.getElem_range]
  rw [Nat.sub_sub]

/-- The records of a queue that one report holds. -/
def heldBy (n : QueueNo) : ReportBody → Nat
  | .data m count _ => if m = n then count else 0
  | .notices _ _ => 0

theorem olderCount_eq (n : QueueNo) (reports : List Report) :
    olderCount n reports = (reports.map fun report => heldBy n report.body).sum := by
  refine congrArg List.sum (List.map_congr_left fun report _ => ?_)
  cases report.body <;> rfl

theorem olderCount_append (n : QueueNo) (older newer : List Report) :
    olderCount n (older ++ newer) = olderCount n older + olderCount n newer := by
  simp [olderCount_eq]

theorem olderCount_cons (n : QueueNo) (report : Report) (newer : List Report) :
    olderCount n (report :: newer) = heldBy n report.body + olderCount n newer := by
  simp [olderCount_eq]

/-- A report enters the window under the next number, due, while ACTIVE; its records are those in flight since. -/
theorem pushed_window {s t : State} {body : ReportBody} (hactive : s.reports.state = .active)
    (hwindow : t.reports.window = s.reports.window ++ [{ seq := s.reports.nextSeq, body, due := true }])
    (hseq : t.reports.nextSeq = s.reports.nextSeq + 1) (hstate : t.reports.state = s.reports.state)
    (hretries : t.reports.retries = s.reports.retries) (hlimit : t.reports.retryLimit = s.reports.retryLimit)
    (htimeout : t.reports.timeout = s.reports.timeout)
    (hflight : ∀ n, (t.queue n).inFlight = (s.queue n).inFlight + heldBy n body) (h : s.WindowSound) :
    t.WindowSound where
  seqs := by rw [hwindow, hseq, List.map_append, h.seqs, List.length_append]; exact (seqsBefore_succ _ _).symm
  due hother := absurd (hstate.trans hactive) hother
  timer _ := by rw [hstate, hwindow]; exact ⟨hactive, by simp⟩
  retries := by rw [hretries, hlimit]; exact h.retries
  limit := by rw [hlimit]; exact h.limit
  timeout := by rw [htimeout]; exact h.timeout
  inFlight n := by
    rw [hflight, h.inFlight n, State.reportedOf, State.reportedOf, hwindow, olderCount_append, olderCount_cons]
    rfl

theorem mayForm_spec {s : State} (h : s.mayForm = true) :
    s.reports.state = .active ∧ s.reports.window.length < 8 := by
  simp only [State.mayForm, Bool.and_eq_true, beq_iff_eq, Config.windowReports] at h
  exact ⟨h.1.1.2, of_decide_eq_true h.1.2⟩

/-- A window with a free slot takes a report of at most 12 notices or records. -/
theorem pushed_within {r r' : ReportUnit} {body : ReportBody} (hroom : r.window.length < 8)
    (hwindow : r'.window = r.window ++ [{ seq := r.nextSeq, body, due := true }])
    (hbody : bodyWithin body) (hnotices : r'.notices.length ≤ 64) (hloss : r'.noticeLoss ≤ 65535)
    (hbatches : ∀ n : QueueNo, r'.streams[n].batch ≤ 12) (h : ReportsWithin r) : ReportsWithin r' := by
  refine ⟨hnotices, hloss, by rw [hwindow]; simpa using hroom, hbatches, ?_⟩
  rw [hwindow]
  intro report hreport
  rcases List.mem_append.1 hreport with hold | hnew
  · exact h.contents report hold
  · rw [List.mem_singleton.1 hnew]
    exact hbody

theorem keeps_formNotices {s : State} (hmay : s.mayForm = true) : Keeps s s.formNotices := by
  obtain ⟨hactive, hroom⟩ := mayForm_spec hmay
  refine ReportsOnly.keeps {} (reports_queues rfl) (fun h => ?_)
    (pushed_window hactive rfl rfl rfl rfl rfl rfl fun n => rfl)
  refine pushed_within hroom rfl (List.length_take_le _ _) ?_ (Nat.zero_le _) h.batches h
  exact (List.drop_sublist _ _).length_le.trans h.notices

theorem form_sound {q : CaptureQueue} {count : Nat} (hcount : count ≤ q.waiting) (h : q.Sound) :
    { q with inFlight := q.inFlight + count, pendingLoss := 0 }.Sound := by
  refine ⟨h.accounted, h.fits, ?_, Nat.zero_le _⟩
  have hrun := h.run
  simp only [CaptureQueue.waiting] at hcount ⊢
  omega

/-- The stream of a data report: nothing to flush, and a hold that begins again over news that is left. -/
def formedStream (t : StreamState) (q : CaptureQueue) (now : Nat) : StreamState :=
  { t with flushPending := false, holdStart := if q.hasNews then some now else none }

theorem formedStream_sound {t : StreamState} {q : CaptureQueue} (now : Nat) (h : t.Sound q) :
    (formedStream t q now).Sound q := by
  refine ⟨h.batch, h.hold, nofun, ?_⟩
  simp only [formedStream]
  split
  next hnews => exact hnews.symm
  next hnews => exact (Bool.eq_false_iff.2 hnews).symm

/-- The queue of a data report: as many records more in flight, and no loss pending. -/
def formedQueue (s : State) (n : QueueNo) : CaptureQueue :=
  { s.queue n with inFlight := (s.queue n).inFlight + min (s.stream n).batch (s.queue n).waiting, pendingLoss := 0 }

/-- The queues and streams once a data report of a stream is formed. -/
def formedStreams (s : State) (n : QueueNo) : State :=
  (s.withQueue n (formedQueue s n)).withStream n
    (formedStream ((s.withQueue n (formedQueue s n)).stream n) (formedQueue s n) s.time.runClock)

theorem keeps_formData {s : State} (n : QueueNo) (hmay : s.mayForm = true) : Keeps s (s.formData n) := by
  obtain ⟨hactive, hroom⟩ := mayForm_spec hmay
  have hcount : min (s.stream n).batch (s.queue n).waiting ≤ (s.queue n).waiting := Nat.min_le_right _ _
  refine ReportsOnly.keeps {} (fun h => ?_) (fun h => ?_)
    (pushed_window hactive rfl rfl rfl rfl rfl rfl fun m => ?_)
  · have hwritten : (s.withQueue n (formedQueue s n)).QueuesSound :=
      withQueue_sound (form_sound hcount (h.queues n)) rfl h
    have hstream : Keeps (s.withQueue n (formedQueue s n)) (formedStreams s n) := by
      refine keeps_withStream ?_ id
      rw [queue_withQueue]
      exact formedStream_sound _
    refine QueuesSound_of_eq ?_ ?_ (hstream.queues hwritten) <;> exact fun _ => rfl
  · have hwritten := withQueue_reportsWithin n (formedQueue s n) h
    have hformed : ReportsWithin (formedStreams s n).reports :=
      withStream_reportsWithin n (hwritten.batches n) hwritten
    refine pushed_within hroom rfl ?_ h.notices h.noticeLoss hformed.batches h
    exact (Nat.min_le_left _ _).trans (h.batches n)
  · change ((s.withQueue n (formedQueue s n)).queue m).inFlight = _
    rw [queue_withQueue_eq, heldBy]
    split
    next hm => subst hm; simp [formedQueue]
    next hm => simp [Ne.symm hm]

/-! ### Acknowledgement and RESYNC (R164, R169) -/

/-- A change of queues and of the streams' hold starts alone. -/
def QueueWrites (s t : State) : Prop :=
  ∃ queues streams, t = { s with queues, reports := { s.reports with streams } }

theorem QueueWrites.refl (s : State) : QueueWrites s s := ⟨s.queues, s.reports.streams, rfl⟩

theorem QueueWrites.trans {s t u : State} (h : QueueWrites s t) (k : QueueWrites t u) : QueueWrites s u := by
  obtain ⟨_, _, rfl⟩ := h
  obtain ⟨queues, streams, rfl⟩ := k
  exact ⟨queues, streams, rfl⟩

theorem QueueWrites.foldl {α : Type} {f : State → α → State} (h : ∀ s a, QueueWrites s (f s a)) (l : List α)
    (s : State) : QueueWrites s (l.foldl f s) := by
  induction l generalizing s with
  | nil => exact .refl s
  | cons a rest ih => exact (h s a).trans (ih (f s a))

theorem releaseReport_writes (s : State) (report : Report) : QueueWrites s (s.releaseReport report) := by
  rw [State.releaseReport]
  split
  · exact .refl s
  · exact ⟨_, _, rfl⟩

theorem takeBackReport_writes (s : State) (report : Report) : QueueWrites s (s.takeBackReport report) := by
  rw [State.takeBackReport]
  split
  · exact .refl s
  · exact ⟨_, _, rfl⟩

theorem release_sound {q : CaptureQueue} (count : Nat) (h : q.Sound) : (q.release count).Sound := by
  obtain ⟨haccounted, hfits, hrun, hloss⟩ := h
  have hgone : min count q.inFlight ≤ q.records.length := (Nat.min_le_right _ _).trans hrun
  refine ⟨?_, ?_, ?_, hloss⟩ <;> simp only [CaptureQueue.release, List.length_drop]
  · rw [haccounted, Nat.sub_sub_self hgone]
    conv_lhs => rw [← Nat.sub_add_cancel hgone, BitVec.ofNat_add]
    ring
  · exact (Nat.sub_le _ _).trans hfits
  · exact Nat.sub_le_sub_right hrun _

theorem takeBack_sound {q : CaptureQueue} (loss : Nat) (h : q.Sound) : (q.takeBack loss).Sound :=
  ⟨h.accounted, h.fits, Nat.zero_le _, Nat.min_le_left _ _⟩

theorem release_inFlight (q : CaptureQueue) (count : Nat) : (q.release count).inFlight = q.inFlight - count := by
  simp only [CaptureQueue.release]
  omega

theorem releaseReport_inFlight (s : State) (report : Report) (n : QueueNo) :
    ((s.releaseReport report).queue n).inFlight = (s.queue n).inFlight - heldBy n report.body := by
  cases hbody : report.body with
  | notices list loss => simp [State.releaseReport, hbody, heldBy]
  | data m count loss =>
    simp only [State.releaseReport, hbody, heldBy, queue_withQueue_eq]
    by_cases hm : n = m
    · subst hm
      simp [release_inFlight]
    · simp [hm, Ne.symm hm]

theorem releaseReports_inFlight (reports : List Report) (s : State) (n : QueueNo) :
    ((reports.foldl State.releaseReport s).queue n).inFlight = (s.queue n).inFlight - olderCount n reports := by
  induction reports generalizing s with
  | nil => rfl
  | cons report rest ih =>
    rw [List.foldl_cons, ih, releaseReport_inFlight, olderCount_cons, Nat.sub_sub]

/-- What queue writes one after another keep of the queues and of the reports' capacities. -/
theorem writes_kept {f : State → Report → State}
    (hqueues : ∀ s report, s.QueuesSound → (f s report).QueuesSound)
    (hwithin : ∀ s report, ReportsWithin s.reports → ReportsWithin (f s report).reports) (reports : List Report)
    (s : State) : (s.QueuesSound → (reports.foldl f s).QueuesSound) ∧
      (ReportsWithin s.reports → ReportsWithin (reports.foldl f s).reports) := by
  induction reports generalizing s with
  | nil => exact ⟨id, id⟩
  | cons report rest ih => exact ⟨(ih _).1 ∘ hqueues s report, (ih _).2 ∘ hwithin s report⟩

theorem releaseReport_kept (s : State) (report : Report) :
    (s.QueuesSound → (s.releaseReport report).QueuesSound) ∧
      (ReportsWithin s.reports → ReportsWithin (s.releaseReport report).reports) := by
  rw [State.releaseReport]
  split
  · exact ⟨id, id⟩
  · exact ⟨fun h => withQueue_sound (release_sound _ (h.queues _)) rfl h, withQueue_reportsWithin _ _⟩

theorem takeBackReport_kept (s : State) (report : Report) :
    (s.QueuesSound → (s.takeBackReport report).QueuesSound) ∧
      (ReportsWithin s.reports → ReportsWithin (s.takeBackReport report).reports) := by
  rw [State.takeBackReport]
  split
  · exact ⟨id, id⟩
  · exact ⟨fun h => withQueue_sound (takeBack_sound _ (h.queues _)) rfl h, withQueue_reportsWithin _ _⟩

theorem restartedTimer_isSome {r : ReportUnit} {now : Nat} {left : List Report}
    (h : (r.restartedTimer now left).isSome = true) : r.state ≠ .silent ∧ left ≠ [] := by
  rw [ReportUnit.restartedTimer] at h
  split at h
  · cases h
  next hrunning => exact not_or.1 hrunning

/-- R164: the window that an acknowledgement leaves, and the reporting state it leaves it in. -/
def afterAck (s : State) (k : Nat) (t : State) : State :=
  { t with reports := { t.reports with
      window := s.reports.window.drop (k + 1)
      retries := 0
      timer := s.reports.restartedTimer s.time.runClock (s.reports.window.drop (k + 1))
      state := if s.reports.state = .stalled then .active else s.reports.state } }

/-- R164: an acknowledgement counts a stray, or releases the reports up to the one it names. -/
theorem acknowledge_cases (s : State) (seq : Byte) :
    s.acknowledge seq = { s with reports := { s.reports with strays := s.reports.strays + 1 } } ∨
      ∃ k, s.acknowledge seq = afterAck s k ((s.reports.window.take (k + 1)).foldl State.releaseReport s) := by
  rw [State.acknowledge]
  split
  · exact .inl rfl
  next k _ => exact .inr ⟨k, rfl⟩

theorem afterAck_window {s t : State} {k : Nat} (hwrites : QueueWrites s t)
    (hflight : ∀ n, (t.queue n).inFlight = (s.queue n).inFlight - olderCount n (s.reports.window.take (k + 1)))
    (h : s.WindowSound) : (afterAck s k t).WindowSound := by
  obtain ⟨queues, streams, rfl⟩ := hwrites
  have hstate : ∀ state : ReportingState, (if state = .stalled then .active else state) ≠ ReportingState.active →
      state ≠ .active ∧ state = .silent := fun state => by cases state <;> simp
  refine ⟨?_, fun hother report hreport => ?_, fun htimer => ?_, Nat.zero_le _, h.limit, h.timeout, fun n => ?_⟩
  · change (s.reports.window.drop (k + 1)).map Report.seq = _
    rw [List.map_drop, h.seqs, seqsBefore_drop]
    exact congrArg _ (List.length_drop).symm
  · exact h.due (hstate _ hother).1 report (List.mem_of_mem_drop hreport)
  · obtain ⟨hsilent, hleft⟩ := restartedTimer_isSome htimer
    refine ⟨?_, hleft⟩
    by_contra hother
    exact hsilent (hstate _ hother).2
  · refine (hflight n).trans ?_
    have hsplit := olderCount_append n (s.reports.window.take (k + 1)) (s.reports.window.drop (k + 1))
    rw [List.take_append_drop] at hsplit
    rw [h.inFlight n, State.reportedOf, hsplit]
    exact Nat.add_sub_cancel_left _ _

theorem keeps_acknowledge (s : State) (seq : Byte) : Keeps s (s.acknowledge seq) := by
  rcases acknowledge_cases s seq with hs | ⟨k, hs⟩ <;> rw [hs]
  · exact ReportsOnly.keeps {} (reports_queues rfl) (fun h => ⟨h.notices, h.noticeLoss, h.window, h.batches, h.contents⟩)
      (WindowSound_of_eq (fun _ => rfl) rfl rfl rfl rfl rfl rfl rfl)
  · have hwrites := QueueWrites.foldl releaseReport_writes (s.reports.window.take (k + 1)) s
    have hflight := fun n => releaseReports_inFlight (s.reports.window.take (k + 1)) s n
    obtain ⟨hqueues, hwithin⟩ := writes_kept (fun s r => (releaseReport_kept s r).1)
      (fun s r => (releaseReport_kept s r).2) (s.reports.window.take (k + 1)) s
    generalize (s.reports.window.take (k + 1)).foldl State.releaseReport s = t at hwrites hqueues hwithin hflight
    have hwindow := afterAck_window hwrites hflight
    obtain ⟨queues, streams, rfl⟩ := hwrites
    refine ReportsOnly.keeps {} (fun h => reports_queues rfl (hqueues h)) (fun h => ?_) hwindow
    have ht := hwithin h
    exact ⟨ht.notices, ht.noticeLoss, (List.drop_sublist _ _).length_le.trans ht.window, ht.batches,
      fun report hreport => ht.contents report (List.mem_of_mem_drop hreport)⟩

theorem takeBackReports_inFlight (reports : List Report) (s : State) (n : QueueNo) :
    ((reports.foldl State.takeBackReport s).queue n).inFlight = 0 ∨
      ((reports.foldl State.takeBackReport s).queue n).inFlight = (s.queue n).inFlight ∧ olderCount n reports = 0 := by
  induction reports generalizing s with
  | nil => exact .inr ⟨rfl, rfl⟩
  | cons report rest ih =>
    have hfirst : ((s.takeBackReport report).queue n).inFlight = 0 ∨
        ((s.takeBackReport report).queue n).inFlight = (s.queue n).inFlight ∧ heldBy n report.body = 0 := by
      cases hbody : report.body with
      | notices list loss => simp [State.takeBackReport, hbody, heldBy]
      | data m count loss =>
        simp only [State.takeBackReport, hbody, heldBy, queue_withQueue_eq]
        by_cases hm : n = m
        · exact .inl (by simp [hm, CaptureQueue.takeBack])
        · exact .inr (by simp [hm, Ne.symm hm])
    rw [List.foldl_cons, olderCount_cons]
    rcases ih (s.takeBackReport report) with hzero | ⟨hsame, hrest⟩
    · exact .inl hzero
    · rcases hfirst with hzero | ⟨hkept, hnone⟩
      · exact .inl (hsame.trans hzero)
      · exact .inr ⟨hsame.trans hkept, by rw [hnone, hrest]⟩

/-- R169: the window is discarded and what its reports held is given back. -/
theorem keeps_discardWindow (s : State) : Keeps s s.discardWindow := by
  have hwrites := QueueWrites.foldl takeBackReport_writes s.reports.window s
  have hflight := fun n => takeBackReports_inFlight s.reports.window s n
  obtain ⟨hqueues, hwithin⟩ := writes_kept (fun s r => (takeBackReport_kept s r).1)
    (fun s r => (takeBackReport_kept s r).2) s.reports.window s
  simp only [State.discardWindow]
  generalize s.reports.window.foldl State.takeBackReport s = t at hwrites hqueues hwithin hflight
  obtain ⟨queues, streams, rfl⟩ := hwrites
  refine ReportsOnly.keeps {} (fun h => reports_queues rfl (hqueues h)) (fun h => ?_) fun h => ?_
  · exact ⟨List.length_take_le _ _, Nat.min_le_left _ _, Nat.zero_le _, (hwithin h).batches, nofun⟩
  · refine ⟨rfl, fun _ => nofun, nofun, Nat.zero_le _, h.limit, h.timeout, fun n => ?_⟩
    rcases hflight n with hzero | ⟨hsame, hnone⟩
    · exact hzero
    · exact hsame.trans ((h.inFlight n).trans hnone)

theorem discardWindow_link (s : State) : s.discardWindow.link = s.link := by
  obtain ⟨queues, streams, hwrites⟩ := QueueWrites.foldl takeBackReport_writes s.reports.window s
  simp only [State.discardWindow, hwrites]

/-! ### The link transmitter (R147, R163) -/

theorem keeps_startReplyFrame (s : State) (reply : Reply) : Keeps s (s.startReplyFrame reply) := by
  refine keeps_link (link := (s.startReplyFrame reply).link) fun h => ?_
  have htail : s.link.replies.tail.length ≤ s.link.replies.length := by
    rw [List.length_tail]
    omega
  exact ⟨h.requests, h.cache, htail.trans h.replies, fun e he hhold => htail.trans (h.place e he hhold)⟩

theorem offeredReport_spec {s : State} {report : Report} (h : s.offeredReport = some report) :
    s.reports.state = .active ∧ report ∈ s.reports.window := by
  rw [State.offeredReport] at h
  split at h
  next hactive => exact ⟨hactive, List.mem_of_find?_eq_some h⟩
  next => cases h

/-- The window while a report is sent: it is no longer due. -/
def sentWindow (seq : Byte) (window : List Report) : List Report :=
  window.map fun other => if other.seq = seq then { other with due := false } else other

theorem sentWindow_mem {seq : Byte} {window : List Report} {report : Report} (h : report ∈ sentWindow seq window) :
    ∃ old ∈ window, report.body = old.body := by
  obtain ⟨old, hold, rfl⟩ := List.mem_map.1 h
  exact ⟨old, hold, by split <;> rfl⟩

theorem sentWindow_seq (seq : Byte) (window : List Report) :
    (sentWindow seq window).map Report.seq = window.map Report.seq := by
  simp only [sentWindow, List.map_map]
  refine List.map_congr_left fun report _ => ?_
  simp only [Function.comp_apply]
  split <;> rfl

theorem olderCount_sentWindow (n : QueueNo) (seq : Byte) (window : List Report) :
    olderCount n (sentWindow seq window) = olderCount n window := by
  rw [olderCount_eq, olderCount_eq, sentWindow, List.map_map]
  refine congrArg List.sum (List.map_congr_left fun report _ => ?_)
  simp only [Function.comp_apply]
  split <;> rfl

theorem keeps_startReportFrame {s : State} {report : Report} (h : s.offeredReport = some report) :
    Keeps s (s.startReportFrame report) := by
  obtain ⟨hactive, hmem⟩ := offeredReport_spec h
  refine ReportsOnly.keeps { link := fun h => ⟨h.requests, h.cache, h.replies, h.place⟩ }
    (QueuesSound_of_eq (fun _ => rfl) fun _ => rfl) (fun h => ?_) fun h => ?_
  · refine ⟨h.notices, h.noticeLoss, ?_, h.batches, fun other hother => ?_⟩
    · simpa [State.startReportFrame] using h.window
    · obtain ⟨old, hold, hbody⟩ := sentWindow_mem hother
      rw [hbody]
      exact h.contents old hold
  · refine ⟨?_, fun hother => absurd hactive hother, fun _ => ⟨hactive, ?_⟩, h.retries, h.limit, h.timeout, fun n => ?_⟩
    · change (sentWindow report.seq s.reports.window).map Report.seq = seqsBefore _ (List.length (List.map _ _))
      rw [sentWindow_seq, List.length_map]
      exact h.seqs
    · exact List.ne_nil_of_mem (List.mem_map.2 ⟨report, hmem, rfl⟩)
    · exact (h.inFlight n).trans (olderCount_sentWindow n report.seq s.reports.window).symm

theorem keeps_linkFrameStart (s : State) :
    Keeps s (match s.link.replies.head?, s.offeredReport with
      | some reply, _ => s.startReplyFrame reply
      | none, some report => s.startReportFrame report
      | none, none => s) := by
  split
  · exact keeps_startReplyFrame s _
  next h => exact keeps_startReportFrame h
  · exact .refl s

theorem keeps_frameComplete {s : State} (f : TransmitFrame) :
    Keeps s { s with link := { s.link with
      transmitter := none
      executing :=
        if f.endsReset then s.link.executing.map fun e => { e with hold := .resetDue } else s.link.executing } } := by
  refine keeps_link fun h => ⟨h.requests, h.cache, h.replies, fun e he hhold => ?_⟩
  simp only at he
  split at he
  · obtain ⟨old, -, rfl⟩ := Option.map_eq_some_iff.1 he
    rcases hhold with hhold | ⟨n, hhold⟩ <;> cases hhold
  · exact h.place e he hhold

/-! ### From bytes to requests (R140 to R144) -/

theorem keeps_takeFrame (bytes : List Byte) (s : State) : Keeps s (s.takeFrame bytes) := by
  simp only [State.takeFrame]
  exact .ite (fun _ => keeps_countLink s _) fun _ => .ite (fun _ => keeps_requestFrame s _) fun _ =>
    .ite (fun _ => keeps_acknowledge s _) fun _ => keeps_countLink s _

theorem keeps_takeByte (byte : Byte) (s : State) : Keeps s (s.takeByte byte) := by
  simp only [State.takeByte]
  split
  · exact .ite (fun _ => keeps_withReceiver s _) fun _ => .refl s
  · exact .ite (fun _ => (keeps_withReceiver s _).trans (keeps_countLink _ _)) fun _ =>
      .ite (fun _ => keeps_withReceiver s _) fun _ => keeps_withReceiver s _
  · exact .ite (fun _ => keeps_withReceiver s _) fun _ => (keeps_withReceiver s _).trans (keeps_takeFrame _ _)

end Sys2Proof.Proofs
end

section
/-! PROOFS. What every step keeps (O54 to O60), and that every command answers (O1 to O3): the resets, the commands one by
one, and the steps. -/

namespace Sys2Proof.Proofs

-- One theorem after another: elaborating them all at once costs a thread and its stack for each.
set_option Elab.async false

open Sys2Proof.Machine Sys2Proof.Laws

/-! ### The values of power-on (R137) -/

/-- A part that holds nothing: what power-on and RESET(FULL) leave, whatever the link rate and the pairs. -/
structure Cleared (t : State) : Prop where
  ports : ∀ n, ∃ pair, t.port n = { pair }
  intake : t.intake = [] := by rfl
  busy : t.busy = none := by rfl
  lineChanges : t.lineChanges = [] := by rfl
  tags : t.tags = [] := by rfl
  queues : t.queues = resetQueues := by rfl
  plan : t.plan = [] := by rfl
  reports : t.reports = {} := by rfl
  requests : t.link.requests = [] := by rfl
  executing : t.link.executing = none := by rfl
  cache : t.link.cache = [] := by rfl
  replies : t.link.replies = [] := by rfl

section Cleared

variable {t : State}

theorem Cleared.queue (h : Cleared t) (n : QueueNo) :
    t.queue n = { depth := if n = mergedQueue then 4096 else 512 } := by
  rw [State.queue, h.queues]
  exact queue_reset n

theorem Cleared.stream (h : Cleared t) (n : QueueNo) : t.stream n = {} := by
  rw [State.stream, h.reports]
  exact stream_reset n

theorem Cleared.queuesSound (h : Cleared t) : t.QueuesSound where
  queues n := by
    rw [h.queue]
    exact ⟨rfl, Nat.zero_le _, Nat.zero_le _, Nat.zero_le _⟩
  streams n := by
    rw [h.stream, h.queue]
    exact ⟨by decide, by decide, nofun, rfl⟩
  pool := by
    simp only [h.queue]
    decide
  merged := by rw [h.queue]; rfl

theorem Cleared.bounded (h : Cleared t) : t.Bounded := by
  refine (bounded_iff t).2 ⟨⟨?_, ?_, ?_, fun n => ?_⟩, ⟨?_, ?_, ?_, ?_⟩, ?_⟩
  · rw [h.intake]; exact Nat.zero_le _
  · rw [h.tags]; exact Nat.zero_le _
  · rw [h.plan]; exact List.nodup_nil
  · obtain ⟨pair, hport⟩ := h.ports n
    rw [hport]
    exact Nat.zero_le _
  · rw [h.requests]; exact Nat.zero_le _
  · rw [h.cache]; exact Nat.zero_le _
  · rw [h.replies]; exact Nat.zero_le _
  · rw [h.executing]; nofun
  · rw [h.reports]
    refine ⟨Nat.zero_le _, Nat.zero_le _, Nat.zero_le _, fun n => ?_, nofun⟩
    exact (congrArg StreamState.batch (stream_reset n)).le

theorem Cleared.linesSound (h : Cleared t) : t.LinesSound := fun n => by
  obtain ⟨pair, hport⟩ := h.ports n
  rw [hport]
  constructor <;> simp [Port.receiverActive, Port.driverActive]

theorem Cleared.planSound (h : Cleared t) : t.PlanSound where
  slots := by rw [h.plan]; nofun
  order := by rw [h.plan]; exact List.Pairwise.nil

theorem Cleared.tagsSound (h : Cleared t) : t.TagsSound := by
  rw [tagsSound_iff, h.tags, h.lineChanges]
  exact ⟨⟨fun e he => absurd he List.not_mem_nil, List.Pairwise.nil, fun line => ⟨_, rfl⟩⟩, fun _ => rfl⟩

theorem Cleared.windowSound (h : Cleared t) : t.WindowSound := by
  constructor <;> simp [h.reports, h.queue, State.reportedOf, olderCount, seqsBefore]

theorem Cleared.keeps (h : Cleared t) {s : State} (hpending : t.pending = s.pending) : Keeps s t :=
  ⟨⟨fun _ => h.queuesSound, fun _ => h.bounded, fun _ => h.windowSound, hpending⟩, fun _ => h.linesSound,
    fun _ => h.planSound, fun _ _ => h.tagsSound⟩

end Cleared

theorem cleared_reset : Cleared State.reset := { ports := fun n => ⟨none, port_reset n⟩ }

/-- Settles O60: power-on leaves a part that holds nothing. -/
theorem invariantsAtReset : Obligations.InvariantsAtReset :=
  ⟨cleared_reset.queuesSound, cleared_reset.bounded, cleared_reset.linesSound, cleared_reset.planSound,
    cleared_reset.tagsSound, cleared_reset.windowSound⟩

/-! ### RESET(TRAFFIC) (R152) -/

theorem queue_trafficReset (s : State) (n : QueueNo) : s.trafficReset.queue n = (s.queue n).afterTrafficReset := by
  simp [State.queue, State.trafficReset]

theorem stream_trafficReset (s : State) (n : QueueNo) :
    s.trafficReset.stream n = { s.stream n with flushPending := false, holdStart := none } := by
  simp [State.stream, State.trafficReset, ReportUnit.afterTrafficReset]

theorem afterTrafficReset_sound {p : Port} (h : p.Sound) : p.afterTrafficReset.Sound := by
  have hoff := h.off
  by_cases hstate : p.state = .off <;> constructor <;>
    simp_all [Port.afterTrafficReset, Port.release, Port.receiverActive, Port.driverActive]

theorem afterTrafficReset_idle (p : Port) : p.afterTrafficReset.state ≠ .running := by
  by_cases hstate : p.state = .off <;> simp [Port.afterTrafficReset, hstate]

theorem trafficReset_queues {s : State} (h : s.QueuesSound) : s.trafficReset.QueuesSound where
  queues n := by
    rw [queue_trafficReset]
    exact ⟨by simp [CaptureQueue.afterTrafficReset], Nat.zero_le _, Nat.zero_le _, Nat.zero_le _⟩
  streams n := by
    rw [queue_trafficReset, stream_trafficReset]
    exact ⟨(h.streams n).batch, (h.streams n).hold, nofun, rfl⟩
  pool := by simpa only [queue_trafficReset, CaptureQueue.afterTrafficReset] using h.pool
  merged := by rw [queue_trafficReset]; exact h.merged

theorem trafficReset_bounded {s : State} (h : s.Bounded) : s.trafficReset.Bounded := by
  obtain ⟨hs, hl, hr⟩ := (bounded_iff s).1 h
  refine (bounded_iff _).2 ⟨⟨Nat.zero_le _, ?_, ?_, fun n => ?_⟩, hl, ⟨Nat.zero_le _, Nat.zero_le _, Nat.zero_le _,
    fun n => ?_, nofun⟩⟩
  · simpa [State.trafficReset] using hs.tags
  · simpa [State.trafficReset, Slot.afterTrafficReset, Function.comp_def] using hs.slots
  · rw [port_trafficReset]
    exact Nat.zero_le _
  · exact (congrArg StreamState.batch (stream_trafficReset s n)).trans_le (hr.batches n)

theorem trafficReset_plan {s : State} (h : s.PlanSound) : s.trafficReset.PlanSound where
  slots slot hslot := by
    obtain ⟨old, hold, rfl⟩ := List.mem_map.1 hslot
    exact ⟨(h.slots old hold).period, (h.slots old hold).phase, rfl, nofun, nofun⟩
  order := List.pairwise_map.2 h.order

theorem trafficReset_tags {s : State} (h : s.TagsSound) : s.trafficReset.TagsSound := by
  obtain ⟨hfit, -⟩ := (tagsSound_iff s).1 h
  refine (tagsSound_iff _).2 ⟨⟨fun e he => ?_, List.pairwise_map.2 hfit.order, fun line => ⟨_, rfl⟩⟩, fun _ => rfl⟩
  obtain ⟨old, hold, rfl⟩ := List.mem_map.1 he
  obtain ⟨hdeadline, hmin, hany, hchange, -, -⟩ := (hfit.fits old hold).sound
  refine fits_of_watched ⟨hdeadline, hmin, hany, hchange, nofun, ?_⟩ fun line _ _ => ?_
  · cases hd : old.settings.deadline <;> simp [Entry.afterTrafficReset, hd]
  · rw [watched, port_trafficReset, watchedPort_state (afterTrafficReset_idle _)]
    simp only [Entry.afterTrafficReset]
    split <;> rfl

theorem trafficReset_window {s : State} (h : s.WindowSound) : s.trafficReset.WindowSound :=
  ⟨rfl, fun _ => nofun, nofun, Nat.zero_le _, h.limit, h.timeout, fun n => by rw [queue_trafficReset]; rfl⟩

theorem answerKeeps_resetTraffic (fields : List Byte) (s : State) : AnswerKeeps s (ruleResetTraffic fields s) := by
  simp only [ruleResetTraffic]
  split
  · exact ⟨⟨⟨trafficReset_queues, trafficReset_bounded, trafficReset_window, rfl⟩,
      fun hl n => by rw [port_trafficReset]; exact afterTrafficReset_sound (hl n), trafficReset_plan,
      fun _ => trafficReset_tags⟩, rfl⟩
  · trivial

/-! ### Every command -/

/-- The command answers a next state, and every invariant is kept. -/
def Answers (s : State) (outcome : Host.Outcome State Fault Refusal) : Prop := ∃ t, outcome = .next t ∧ Keeps s t

theorem answers_happen {effect : State → State} {s : State} (h : Keeps s (effect s)) :
    Answers s (s.happen effect) :=
  ⟨_, rfl, .ite (fun _ => .refl s) fun _ => h⟩

theorem answers_request {command : Instr} {rule : List Byte → State → Answer} {s : State}
    (h : ∀ fields s, AnswerKeeps s (rule fields s)) : Answers s (s.happen (State.carryOut command rule)) :=
  answers_happen (keeps_carryOut (fun fields s _ => h fields s) s)

theorem answers_tagRequest {command : Instr} {rule : List Byte → State → Answer} {s : State}
    (htag : isTagRequest command = true) (h : ∀ fields s, s.tagTableFree = true → AnswerKeeps s (rule fields s)) :
    Answers s (s.happen (State.carryOut command rule)) :=
  answers_happen (keeps_carryOut (fun fields s hfree => h fields s (hfree htag)) s)

theorem answers_endOfWord (line : LineNo) (s : State) : Answers s (execEndOfWord line s) := by
  refine answers_happen ?_
  dsimp only
  split
  next => exact keeps_withPort suits_of_use (le_max_right _ _)
  next kind bits hend =>
    have hidle : Keeps s (s.withPort line { s.port line with pair := none, receiver := .idle false }) :=
      keeps_withPort (suits_of_use (receiver := by simp [receiver_of_wordEnd hend])) (le_max_right _ _)
    exact .ite (fun _ => hidle.trans (keeps_echoOutcome _ _ _)) fun _ => hidle.trans (keeps_receiveOutcome _ _ _)

theorem answers_endOfSending (line : LineNo) (s : State) : Answers s (execEndOfSending line s) := by
  refine answers_happen (.ite (fun hended => ?_) fun _ => .refl s)
  dsimp only
  split
  next word outcome hheld =>
    refine keeps_endSending.trans (keeps_judged _ _ _ ?_)
    rw [port_mapPort, Port.endSending]
    split <;> simp [hheld]
  next => exact keeps_endSending

theorem answers_endOfSpacing (line : LineNo) (s : State) : Answers s (execEndOfSpacing line s) := by
  refine answers_happen (.ite (fun hended => keeps_mapPort (suits_of_use (transmitter := ?_)) (le_max_right _ _))
    fun _ => .refl s)
  rw [State.spacingEnded] at hended
  split at hended
  next h => simp [h]
  next => cases hended

theorem answers_missingTimeReached (line : LineNo) (s : State) : Answers s (execMissingTimeReached line s) := by
  refine answers_happen ?_
  split
  next word hword =>
    refine keeps_judged _ _ _ fun hc => ?_
    simp [State.missingWord, hc] at hword
  next => exact .refl s

theorem answers_slotDue (index : SlotNo) (s : State) : Answers s (execSlotDue index s) := by
  refine answers_happen ?_
  split
  next slot hslot =>
    split
    next due hdue => exact .ite (fun _ => keeps_fallDue (slotAt_mem hslot) hdue) fun _ => .refl s
    next => exact .refl s
  next => exact .refl s

theorem answers_intakeTake (s : State) : Answers s (execIntakeTake s) := by
  refine answers_happen ?_
  split
  next hintake => exact .ite (fun _ => keeps_takeItem hintake) fun _ => .refl s
  next => exact .refl s

theorem answers_tagTableWorkDone (s : State) : Answers s (execTagTableWorkDone s) := by
  refine answers_happen ?_
  split
  next => exact .ite (fun _ => keeps_workDone _) fun _ => .refl s
  next => exact .refl s

theorem answers_freshnessExpiry (line : LineNo) (tag : Tag) (s : State) : Answers s (execFreshnessExpiry line tag s) := by
  refine answers_happen ?_
  split
  next he => exact .ite (fun _ => keeps_expire (entryOf_mem he).1) fun _ => .refl s
  next => exact .refl s

theorem answers_startBit (s : State) : Answers s (execStartBit s) := by
  refine answers_happen ?_
  split
  · exact .refl s
  · exact keeps_withReceiver s _
  · exact keeps_withReceiver s _

theorem answers_unknownRequest (s : State) : Answers s (execUnknownRequest s) := by
  refine answers_happen ?_
  split
  next => exact .refl s
  next hr => exact (keeps_startExecuting hr).trans (keeps_answered _ _ _ startExecuting_room)

theorem answers_resetFullTakesEffect (s : State) : Answers s (execResetFullTakesEffect s) :=
  answers_happen (.ite (fun _ => Cleared.keeps { ports := fun n => ⟨_, port_fullReset s n⟩ } rfl) fun _ => .refl s)

theorem answers_transmitSelection (line : LineNo) (s : State) : Answers s (execTransmitSelection line s) := by
  refine answers_happen ?_
  split
  next h => exact keeps_choose h
  next => exact .refl s

theorem answers_reportFormation (s : State) : Answers s (execReportFormation s) := by
  refine answers_happen (.ite (fun hmay => ?_) fun _ => .refl s)
  rw [State.form]
  refine .ite (fun _ => keeps_formNotices hmay) fun _ => ?_
  split
  next => exact keeps_formData _ hmay
  next => exact .refl s

theorem answers_linkFrameComplete (s : State) : Answers s (execLinkFrameComplete s) := by
  refine answers_happen ?_
  split
  next => exact .refl s
  next f _ => exact .ite (fun _ => keeps_frameComplete f) fun _ => .refl s

theorem answers_pulseEdge (s : State) : Answers s (execPulseEdge s) :=
  answers_happen (Keeps.ite (fun _ => keeps_takeEdge s) fun _ => keeps_time s _)

theorem answers_powerOn (lrate : BitVec 2) (s : State) : Answers s (exec (.powerOn lrate) s) := by
  refine ⟨_, exec_powerOn lrate s, Cleared.keeps ?_ rfl⟩
  exact { ports := fun n => ⟨none, port_reset n⟩ }

theorem answers_rstnLow (s : State) : Answers s (exec .rstnLow s) := by
  refine ⟨_, exec_rstnLow s, Cleared.keeps ?_ rfl⟩
  exact { ports := fun n => ⟨none, port_reset n⟩ }

theorem keeps_byteError (s : State) (f : LinkCounters → LinkCounters) :
    Keeps s ((s.withReceiver .hunt).countLink f) :=
  (keeps_withReceiver s _).trans (keeps_countLink _ _)

theorem answers_byteReceived (byte : Byte) (stopHigh : Bool) (s : State) :
    Answers s (execByteReceived byte stopHigh s) := by
  refine answers_happen ?_
  split
  next => exact keeps_takeByte byte s
  next => exact keeps_byteError s _

theorem answers_interByteTimeout (s : State) : Answers s (execInterByteTimeout s) :=
  answers_happen (Keeps.ite (fun _ => keeps_byteError s _) fun _ => .refl s)

/-- Every command answers a next state, keeps every invariant, and leaves the queue of waiting commands alone. -/
theorem exec_answers (c : Instr) (s : State) : Answers s (exec c s) := by
  cases c with
  | powerOn lrate => exact answers_powerOn lrate s
  | rstnLow => exact answers_rstnLow s
  | pulseEdge => exact answers_pulseEdge s
  | armWindowExpiry => exact answers_happen (.ite (fun _ => keeps_expireArm s) fun _ => .refl s)
  | firstEdge line sense => exact answers_happen (keeps_firstEdge line sense s)
  | bitDecoded line first second =>
    exact answers_happen (keeps_mapPort (suits_of_use (receiver := takeBit_dormant _ _ _)) (le_max_right _ _))
  | codingViolation line =>
    exact answers_happen (keeps_mapPort (suits_of_use (receiver := by cases (s.port line).receiver <;> simp))
      (le_max_right _ _))
  | endOfWord line => exact answers_endOfWord line s
  | missedWordEnded line =>
    exact answers_happen (keeps_mapPort (suits_of_use (receiver := by cases (s.port line).receiver <;> simp))
      (le_max_right _ _))
  | missingTimeReached line => exact answers_missingTimeReached line s
  | endOfSending line => exact answers_endOfSending line s
  | endOfSpacing line => exact answers_endOfSpacing line s
  | transmitSelection line => exact answers_transmitSelection line s
  | stopEnd line => exact answers_happen (keeps_tryEndStop line s)
  | slotDue index => exact answers_slotDue index s
  | intakeTake => exact answers_intakeTake s
  | tagTableWorkDone => exact answers_tagTableWorkDone s
  | freshnessExpiry line tag => exact answers_freshnessExpiry line tag s
  | byteReceived byte stopHigh => exact answers_byteReceived byte stopHigh s
  | startBit => exact answers_startBit s
  | interByteTimeout => exact answers_interByteTimeout s
  | unknownRequest => exact answers_unknownRequest s
  | identify => exact answers_request fun _ s => ⟨.refl s, rfl⟩
  | getStatus => exact answers_request fun _ s => ⟨.refl s, rfl⟩
  | resetTraffic => exact answers_request answerKeeps_resetTraffic
  | resetFull => exact answers_request fun _ s => ⟨.refl s, rfl⟩
  | resetFullTakesEffect => exact answers_resetFullTakesEffect s
  | configureLine => exact answers_request answerKeeps_configureLine
  | startLine => exact answers_request answerKeeps_startLine
  | stopLine => exact answers_request answerKeeps_stopLine
  | readLine => exact answers_request answerKeeps_readLine
  | clearFault => exact answers_request answerKeeps_clearFault
  | addTag => exact answers_tagRequest rfl answerKeeps_addTag
  | changeTag => exact answers_tagRequest rfl answerKeeps_changeTag
  | removeTag => exact answers_request answerKeeps_removeTag
  | readTag => exact answers_request answerKeeps_readTag
  | listTags => exact answers_request answerKeeps_listTags
  | clearTags => exact answers_request answerKeeps_clearTags
  | setQueue => exact answers_request answerKeeps_setQueue
  | readQueue => exact answers_request answerKeeps_readQueue
  | setTime => exact answers_request answerKeeps_setTime
  | armTime => exact answers_request answerKeeps_armTime
  | cancelArm => exact answers_request fun _ s => ⟨keeps_time s _, rfl⟩
  | readTime => exact answers_request fun _ s => ⟨.refl s, rfl⟩
  | setPulseNotice => exact answers_request answerKeeps_setPulseNotice
  | addSlot => exact answers_request answerKeeps_addSlot
  | changeSlot => exact answers_request answerKeeps_changeSlot
  | setValue => exact answers_request answerKeeps_setValue
  | removeSlot => exact answers_request answerKeeps_removeSlot
  | readSlot => exact answers_request answerKeeps_readSlot
  | send => exact answers_request answerKeeps_send
  | startReports => exact answers_request answerKeeps_startReports
  | stopReports => exact answers_request answerKeeps_stopReports
  | resync => exact answers_request fun _ s => ⟨keeps_discardWindow s, discardWindow_link s⟩
  | subscribe => exact answers_request answerKeeps_subscribe
  | unsubscribe => exact answers_request answerKeeps_unsubscribe
  | flush => exact answers_request answerKeeps_flush
  | holdRunOut stream => exact ⟨s, rfl, .refl s⟩
  | reportFormation => exact answers_reportFormation s
  | linkFrameStart => exact answers_happen (.ite (fun _ => keeps_linkFrameStart s) fun _ => .refl s)
  | linkFrameComplete => exact answers_linkFrameComplete s
  | retransmitTimeout => exact answers_happen (.ite keeps_timeOut fun _ => .refl s)

/-- R137: while RSTn is low a command that is neither POWER_ON nor RSTN_LOW changes nothing. -/
theorem exec_held {s : State} (hheld : s.held = true) (c : Instr) (hlow : c ≠ .rstnLow)
    (hon : ∀ lrate, c ≠ .powerOn lrate) : exec c s = .next s := by
  cases c with
  | powerOn lrate => exact absurd rfl (hon lrate)
  | rstnLow => exact absurd rfl hlow
  | holdRunOut stream => rfl
  | _ =>
    dsimp only [exec]
    exact happen_held _ hheld

/-! ### Steps -/

/-- Settles O1: by definition. -/
theorem stepRunsFrontCommand : Obligations.StepRunsFrontCommand := fun _ _ _ => rfl

/-- Settles O3: each command is a happening, whose effect keeps the queue of waiting commands. -/
theorem everyCommandAnswers : Obligations.EveryCommandAnswers := by
  refine ⟨fun c s => ?_, fun c s hheld => exec_held hheld c⟩
  obtain ⟨t, ht, hkeeps⟩ := exec_answers c s
  exact ⟨t, ht, hkeeps.pending⟩

theorem step_nil {s : State} (h : s.pending = []) :
    step s = match s.nextHappening with
      | some c => exec c s
      | none => .next s.tick := by
  rw [step, h] <;> rfl

/-- Settles O2, from the two cases of a step on an empty queue. -/
theorem emptyQueueStep : Obligations.EmptyQueueStep := by
  intro s hempty
  rw [step_nil hempty]
  refine ⟨fun c hc => by rw [hc], fun hnone hrunning => ?_, fun hheld => ?_⟩
  · rw [hnone]
    simp [State.tick, hrunning]
  · have hnone : s.nextHappening = none := by simp [State.nextHappening, hheld]
    rw [hnone]
    simp [State.tick, hheld]

/-- What an invariant reads of a state is not the queue of waiting commands. -/
theorem withPending_kept {s : State} (rest : List Instr) :
    (s.QueuesSound → { s with pending := rest }.QueuesSound) ∧ (s.Bounded → { s with pending := rest }.Bounded) ∧
      (s.LinesSound → { s with pending := rest }.LinesSound) ∧ (s.PlanSound → { s with pending := rest }.PlanSound) ∧
      (s.TagsSound → { s with pending := rest }.TagsSound) ∧ (s.WindowSound → { s with pending := rest }.WindowSound) :=
  ⟨QueuesSound_of_eq (fun _ => rfl) fun _ => rfl, fun h => (bounded_iff _).2 ((bounded_iff s).1 h |>.imp_left
    fun hs => ⟨hs.intake, hs.tags, hs.slots, hs.sendQueues⟩), id, PlanSound_of_eq rfl fun _ => rfl,
    TagsSound_of_eq rfl rfl id rfl, WindowSound_of_eq (fun _ => rfl) rfl rfl rfl rfl rfl rfl rfl⟩

/-- A step is a command with the rest of the queue, a command of the part's own, or one microsecond. -/
theorem step_cases {s t : State} (h : step s = .next t) :
    ∃ rest, Keeps { s with pending := rest } t := by
  rw [step] at h
  split at h
  next c rest _ =>
    obtain ⟨u, hu, hkeeps⟩ := exec_answers c { s with pending := rest }
    cases hu.symm.trans h
    exact ⟨rest, hkeeps⟩
  next =>
    refine ⟨s.pending, ?_⟩
    split at h
    next c _ =>
      obtain ⟨u, hu, hkeeps⟩ := exec_answers c s
      cases hu.symm.trans h
      exact hkeeps
    next =>
      cases h
      exact .ite (fun _ => .refl s) fun _ => keeps_time s _

/-- Settles O54: every command keeps the queues, whatever waits in the queue of commands. -/
theorem stepKeepsQueues : Obligations.StepKeepsQueues := by
  intro s t hs hstep
  obtain ⟨rest, hkeeps⟩ := step_cases hstep
  exact hkeeps.queues ((withPending_kept rest).1 hs)

/-- Settles O55: every command keeps the capacities. -/
theorem stepKeepsBounds : Obligations.StepKeepsBounds := by
  intro s t hs hstep
  obtain ⟨rest, hkeeps⟩ := step_cases hstep
  exact hkeeps.bounds ((withPending_kept rest).2.1 hs)

/-- Settles O56: every command keeps the lines. -/
theorem stepKeepsLines : Obligations.StepKeepsLines := by
  intro s t hs hstep
  obtain ⟨rest, hkeeps⟩ := step_cases hstep
  exact hkeeps.lines hs

/-- Settles O57: every command keeps the plan. -/
theorem stepKeepsPlan : Obligations.StepKeepsPlan := by
  intro s t hs hstep
  obtain ⟨rest, hkeeps⟩ := step_cases hstep
  obtain ⟨-, -, -, hplan, -, -⟩ := withPending_kept (s := s) rest
  exact hkeeps.plan (hplan hs)

/-- Settles O58: every command keeps the Tag Table in agreement with the lines, where these agree in themselves. -/
theorem stepKeepsTags : Obligations.StepKeepsTags := by
  intro s t hl hs hstep
  obtain ⟨rest, hkeeps⟩ := step_cases hstep
  obtain ⟨-, -, -, -, htags, -⟩ := withPending_kept (s := s) rest
  exact hkeeps.tags hl (htags hs)

/-- Settles O59: every command keeps the report window. -/
theorem stepKeepsWindow : Obligations.StepKeepsWindow := by
  intro s t hs hstep
  obtain ⟨rest, hkeeps⟩ := step_cases hstep
  obtain ⟨-, -, -, -, -, hwindow⟩ := withPending_kept (s := s) rest
  exact hkeeps.window (hwindow hs)

end Sys2Proof.Proofs
end

section
/-! PROOFS. What queues, streams and notices are after offers and notices (R63, R73, R83, R155, R156), the resets
(R137, R152, R153) and the time base (R85 to R91): O4 to O10. -/

namespace Sys2Proof.Proofs

-- One theorem after another: elaborating them all at once costs a thread and its stack for each.
set_option Elab.async false

open Sys2Proof.Machine Sys2Proof.Laws

/-! ### Notices, in the order in which a happening queues them (R155) -/

/-- The notice queue and the pending loss are within their capacities (R155). -/
def NoticesWithin (s : State) : Prop := s.reports.notices.length ≤ 64 ∧ s.reports.noticeLoss ≤ 65535

section Noticed

variable {s t u : State}

theorem noticed_nil (h : NoticesWithin s) (hnotices : t.reports.notices = s.reports.notices)
    (hloss : t.reports.noticeLoss = s.reports.noticeLoss) : s.Noticed t [] := by
  obtain ⟨hroom, hbound⟩ := h
  constructor
  · rw [hnotices, List.append_nil, List.take_of_length_le hroom]
  · rw [hloss, List.append_nil]
    omega

theorem noticed_within {news : List Notice} (h : s.Noticed t news) : NoticesWithin t := by
  refine ⟨?_, ?_⟩
  · rw [h.kept]
    exact List.length_take_le _ _
  · rw [h.lost]
    exact Nat.min_le_left _ _

/-- What is noticed reads the notice queue and its loss alone. -/
theorem noticed_congr {news : List Notice} (h : t.Noticed u news) (hnotices : t.reports.notices = s.reports.notices)
    (hloss : t.reports.noticeLoss = s.reports.noticeLoss) : s.Noticed u news := by
  obtain ⟨hkept, hlost⟩ := h
  rw [hnotices] at hkept hlost
  exact ⟨hkept, by rw [hlost, hloss]⟩

/-- Notices queued in two parts are queued in the order of the parts. -/
theorem noticed_trans {news more : List Notice} (h : s.Noticed t news) (k : t.Noticed u more) :
    s.Noticed u (news ++ more) := by
  constructor
  · rw [k.kept, h.kept, ← List.append_assoc, List.take_append, List.take_append (l₁ := s.reports.notices ++ news),
      List.take_take, List.length_take, Nat.min_self]
    congr 2
    omega
  · rw [k.lost, h.lost]
    have hheld : (t.reports.notices).length = min 64 (s.reports.notices ++ news).length := by
      rw [h.kept, List.length_take]
    simp only [List.length_append] at hheld ⊢
    omega

theorem noticed_queueNotice (h : NoticesWithin s) (x : Notice) : s.Noticed (s.queueNotice x) [x] := by
  obtain ⟨hroom, hbound⟩ := h
  rcases Nat.lt_or_ge s.reports.notices.length 64 with hfree | hfull
  · rw [queueNotice_room s x hfree]
    constructor
    · exact (List.take_of_length_le (by simpa using hfree)).symm
    · simp only [List.length_append, List.length_singleton]
      omega
  · rw [queueNotice_full s x hfull]
    constructor
    · exact (List.take_left' (Nat.le_antisymm hroom hfull)).symm
    · change min 65535 (s.reports.noticeLoss + 1) = _
      simp only [List.length_append, List.length_singleton]
      congr 2
      omega

theorem noticed_queueNoticeIf (h : NoticesWithin s) (b : Bool) (x : Notice) :
    s.Noticed (s.queueNoticeIf b x) (if b then [x] else []) := by
  cases b with
  | true => exact noticed_queueNotice h x
  | false => exact noticed_nil h rfl rfl

end Noticed

/-! ### Offers to a queue, with the stream and the notice (R63, R73, R156) -/

/-- Apart from queues, notices with their loss, and streams, nothing differs. -/
def Captured (s t : State) : Prop :=
  ∃ queues notices noticeLoss streams,
    t = { s with queues, reports := { s.reports with notices, noticeLoss, streams } }

section Captured

variable {s t u : State}

theorem Captured.refl (s : State) : Captured s s := ⟨_, _, _, _, rfl⟩

theorem Captured.trans (h : Captured s t) (k : Captured t u) : Captured s u := by
  obtain ⟨_, _, _, _, rfl⟩ := h
  obtain ⟨_, _, _, _, rfl⟩ := k
  exact ⟨_, _, _, _, rfl⟩

theorem captured_queueNotice (s : State) (x : Notice) : Captured s (s.queueNotice x) := by
  rw [State.queueNotice]
  split <;> exact ⟨_, _, _, _, rfl⟩

theorem captured_queueNoticeIf (s : State) (b : Bool) (x : Notice) : Captured s (s.queueNoticeIf b x) := by
  cases b with
  | true => exact captured_queueNotice s x
  | false => exact .refl s

theorem captured_offer (s : State) (n : QueueNo) (record : CaptureRecord) : Captured s (s.offer n record) :=
  Captured.trans ⟨_, _, _, _, rfl⟩ (captured_queueNoticeIf _ _ _)

theorem captured_offerLoadMarks (reason : MarkReason) (stamp : Stamp) (l : List QueueNo) (s : State) :
    Captured s (l.foldl (State.offerLoadMark reason stamp) s) := by
  induction l generalizing s with
  | nil => exact .refl s
  | cons n rest ih =>
    refine Captured.trans ?_ (ih _)
    rcases offerLoadMark_cases s reason stamp n with h | h <;> rw [h]
    · exact .refl s
    · exact captured_offer s n _

end Captured

/-- The stream of a queue that took an offer (R156). -/
def offeredStream (s : State) (n : QueueNo) (record : CaptureRecord) : StreamState :=
  { s.stream n with
    holdStart := holdStartAfter ((s.queue n).offer record) (s.stream n).holdStart s.time.runClock }

theorem offer_stream_eq (s : State) (n m : QueueNo) (record : CaptureRecord) :
    (s.offer n record).stream m = if m = n then offeredStream s n record else s.stream m := by
  rw [State.offer, queueNoticeIf_stream]
  split
  next h => rw [h, stream_withQueue, offeredStream]
  next h => rw [stream_withQueue_ne s n m _ h]

theorem fullNotice_eq (s : State) (stamp : Stamp) (n : QueueNo) :
    s.fullNotice stamp n = if (s.queue n).aboutToFill then
      [{ body := .queueFull (s.queue n).depth, line := some n, tag := 0, stamp }] else [] := by
  simp [State.fullNotice, CaptureQueue.aboutToFill]

/-- An offer queues the QUEUE_FULL notice of an append that fills a queue with an armed full notice, else none (R73). -/
theorem noticed_offer {s : State} (h : NoticesWithin s) (n : QueueNo) (record : CaptureRecord) :
    s.Noticed (s.offer n record) (s.fullNotice record.stamp n) := by
  have hwritten : NoticesWithin (s.withQueue n ((s.queue n).offer record)) := h
  rw [fullNotice_eq, State.offer]
  exact noticed_congr (noticed_queueNoticeIf hwritten _ _) rfl rfl

/-! ### Loads of line time (R83) -/

section LoadMarks

variable (reason : MarkReason) (stamp : Stamp)

/-- A line queue of depth 0 is offered no MARK of a load (R66, R83). -/
abbrev Unmarked (s : State) (n : QueueNo) : Prop := n ≠ mergedQueue ∧ (s.queue n).depth = 0

theorem offerLoadMark_unmarked {s : State} {n : QueueNo} (h : Unmarked s n) : s.offerLoadMark reason stamp n = s :=
  if_pos h

theorem offerLoadMark_marked {s : State} {n : QueueNo} (h : ¬ Unmarked s n) :
    s.offerLoadMark reason stamp n = s.offer n (markRecord n reason stamp) :=
  if_neg h

theorem offerLoadMark_other (s : State) {n m : QueueNo} (h : m ≠ n) :
    (s.offerLoadMark reason stamp n).queue m = s.queue m ∧ (s.offerLoadMark reason stamp n).stream m = s.stream m := by
  by_cases hn : Unmarked s n
  · rw [offerLoadMark_unmarked reason stamp hn]
    exact ⟨rfl, rfl⟩
  · rw [offerLoadMark_marked reason stamp hn, offer_queue_eq, offer_stream_eq, if_neg h, if_neg h]
    exact ⟨rfl, rfl⟩

/-- What the MARKs of a load do to the stream of a queue. -/
theorem offerLoadMarks_stream (m : QueueNo) (l : List QueueNo) (hl : l.Nodup) (s : State) :
    (l.foldl (State.offerLoadMark reason stamp) s).stream m =
      if m ∈ l ∧ ¬ Unmarked s m then offeredStream s m (markRecord m reason stamp) else s.stream m := by
  induction l generalizing s with
  | nil => simp
  | cons n rest ih =>
    rw [List.nodup_cons] at hl
    rw [List.foldl_cons, ih hl.2]
    by_cases hn : m = n
    · subst hn
      rw [if_neg fun h => hl.1 h.1]
      by_cases hm : Unmarked s m
      · rw [offerLoadMark_unmarked reason stamp hm, if_neg fun h => h.2 hm]
      · rw [offerLoadMark_marked reason stamp hm, offer_stream_eq, if_pos rfl, if_pos ⟨List.mem_cons_self, hm⟩]
    · obtain ⟨hqueue, hstream⟩ := offerLoadMark_other reason stamp s hn
      simp only [Unmarked, offeredStream, hqueue, hstream, offerLoadMark_time, List.mem_cons, hn, false_or]

theorem fullNotice_congr {s t : State} {n : QueueNo} (h : t.queue n = s.queue n) :
    t.fullNotice stamp n = s.fullNotice stamp n := by
  simp only [State.fullNotice, h]

theorem noticed_offerLoadMark {s : State} (h : NoticesWithin s) (n : QueueNo) :
    s.Noticed (s.offerLoadMark reason stamp n) (s.fullNotice stamp n) := by
  by_cases hn : Unmarked s n
  · rw [offerLoadMark_unmarked reason stamp hn, State.fullNotice, if_neg (by rw [hn.2]; omega)]
    exact noticed_nil h rfl rfl
  · rw [offerLoadMark_marked reason stamp hn]
    exact noticed_offer h n _

theorem noticed_offerLoadMarks (l : List QueueNo) (hl : l.Nodup) {s : State} (h : NoticesWithin s) :
    s.Noticed (l.foldl (State.offerLoadMark reason stamp) s) (l.map (s.fullNotice stamp)).flatten := by
  induction l generalizing s with
  | nil => exact noticed_nil h rfl rfl
  | cons n rest ih =>
    rw [List.nodup_cons] at hl
    have hfirst := noticed_offerLoadMark reason stamp h n
    have hkept : rest.map ((s.offerLoadMark reason stamp n).fullNotice stamp) = rest.map (s.fullNotice stamp) := by
      refine List.map_congr_left fun m hm => fullNotice_congr stamp ?_
      have hne : m ≠ n := fun heq => hl.1 (by rwa [← heq])
      exact (offerLoadMark_other reason stamp s hne).1
    simpa only [List.foldl_cons, List.map_cons, List.flatten_cons, hkept] using noticed_trans hfirst (ih hl.2 (noticed_within hfirst))

end LoadMarks

/-- Line time and the epoch after a load (R83). -/
def loadedTime (s : State) (value : Nat) : TimeBase := { s.time with lineTime := value, epoch := s.time.epoch + 1 }

theorem load_eq (s : State) (value : Nat) (reason : MarkReason) :
    s.load value reason = (List.finRange 13).foldl
      (State.offerLoadMark reason ⟨value, s.time.epoch + 1⟩) { s with time := loadedTime s value } := rfl

theorem load_captured (s : State) (value : Nat) (reason : MarkReason) :
    Captured { s with time := loadedTime s value } (s.load value reason) := by
  rw [load_eq]
  exact captured_offerLoadMarks _ _ _ _

theorem load_stream (s : State) (value : Nat) (reason : MarkReason) (m : QueueNo) :
    (s.load value reason).stream m =
      if Unmarked s m then s.stream m else offeredStream s m (markRecord m reason ⟨value, s.time.epoch + 1⟩) := by
  rw [load_eq, offerLoadMarks_stream _ _ _ _ (List.nodup_finRange 13)]
  simp only [List.mem_finRange, true_and, ite_not]
  rfl

/-- R83, R61: what a load does to a queue and its stream. -/
theorem load_marks (s : State) (value : Nat) (reason : MarkReason) (n : QueueNo) :
    if n ≠ mergedQueue ∧ (s.queue n).depth = 0 then
      (s.load value reason).queue n = s.queue n ∧ (s.load value reason).stream n = s.stream n
    else
      (s.load value reason).queue n =
        (s.queue n).offer { body := .mark reason, line := n, bits := 0, stamp := ⟨value, s.time.epoch + 1⟩ } ∧
      (s.load value reason).stream n = { s.stream n with holdStart :=
        if ((s.load value reason).queue n).hasNews then some ((s.stream n).holdStart.getD s.time.runClock) else none } := by
  rw [load_queue, load_stream]
  split
  next => exact ⟨rfl, rfl⟩
  next => exact ⟨rfl, rfl⟩

/-- R73: a load queues the QUEUE_FULL notices of its MARKs in the order of the queues. -/
theorem noticed_load {s : State} (h : NoticesWithin s) (value : Nat) (reason : MarkReason) :
    s.Noticed (s.load value reason) ((List.finRange 13).map (s.fullNotice ⟨value, s.time.epoch + 1⟩)).flatten := by
  have hloaded : NoticesWithin { s with time := loadedTime s value } := h
  have hfull : { s with time := loadedTime s value }.fullNotice ⟨value, s.time.epoch + 1⟩ =
      s.fullNotice ⟨value, s.time.epoch + 1⟩ := funext fun n => fullNotice_congr _ rfl
  have hmarks := noticed_offerLoadMarks reason ⟨value, s.time.epoch + 1⟩ _ (List.nodup_finRange 13) hloaded
  rw [hfull] at hmarks
  rw [load_eq]
  exact noticed_congr hmarks rfl rfl

end Sys2Proof.Proofs
end

section
/-! PROOFS. Power-on and the resets (R137, R152, R153): O4 to O6; and the time base (R85 to R91): O7 to O10. -/

namespace Sys2Proof.Proofs

-- One theorem after another: elaborating them all at once costs a thread and its stack for each.
set_option Elab.async false

open Sys2Proof.Machine Sys2Proof.Laws

/-! ### Rows of the executor that are not of the Tag Table (R148, R149) -/

section Row

variable {s : State} {r : Request} {rest : List Request} {code : Byte} {fields : List Byte} {command : Instr}
  {rule : List Byte → State → Answer}

/-- A request that its rule accepts, from its bytes. -/
theorem row_ok (h : s.Offers r rest) (hp : r.payload = code :: fields)
    (hc : requestCommand (code :: fields) = command) (hl : (code :: fields).length = requestLength command)
    (ht : isTagRequest command = false) {t : State} {results : List Byte}
    (hr : rule fields (s.startExecuting r) = .ok t results) (hk : t.link = (s.startExecuting r).link) :
    s.happen (State.carryOut command rule) = .next { t with link := s.link.replied r .ok results } :=
  request_ok h (by rw [hp, hc]) (by rw [hp, hl]) ht t results (by rw [hp]; exact hr) hk

/-- A request that its rule refuses, from its bytes. -/
theorem row_refused (h : s.Offers r rest) (hp : r.payload = code :: fields)
    (hc : requestCommand (code :: fields) = command) (hl : (code :: fields).length = requestLength command)
    (ht : isTagRequest command = false) {status : Status}
    (hr : rule fields (s.startExecuting r) = .refuse status) :
    s.happen (State.carryOut command rule) = .next { s with link := s.link.replied r status [] } :=
  request_refused h (by rw [hp, hc]) (by rw [hp, hl]) ht status (by rw [hp]; exact hr)

end Row

/-! ### Power-on and the resets (R137, R152, R153) -/

theorem rateOfPins_eq (lrate : BitVec 2) :
    rateOfPins lrate = if lrate = 0 then .b115200 else if lrate = 1 then .b460800
      else if lrate = 2 then .b921600 else .b3000000 := by
  revert lrate
  decide

/-- Settles O4: the values of `State.reset`, port by port, queue by queue and stream by stream. -/
theorem powerOn : Obligations.PowerOn := by
  refine ⟨⟨rfl, rfl, rfl, fun n => ?port, rfl, rfl, rfl, rfl, queue_reset, rfl, rfl, rfl, rfl, rfl, rfl, rfl,
    stream_reset, rfl, rfl, rfl, rfl, rfl, rfl, rfl, rfl, rfl, rfl, rfl⟩, fun s lrate => ⟨?on, exec_rstnLow s⟩⟩
  case port =>
    rw [port_reset]
    exact ⟨rfl, rfl, rfl, rfl, rfl, rfl, rfl, rfl, rfl⟩
  case on => rw [exec_powerOn, rateOfPins_eq]

theorem requestCommand_resetTraffic {scope : Byte} (h : scope ≠ 0) : requestCommand [0x03, scope] = .resetTraffic := by
  revert scope
  decide

/-- R152: another scope than TRAFFIC is refused by the rule. -/
theorem resetTraffic_refused {s : State} {r : Request} {rest : List Request} (h : s.Offers r rest) {scope : Byte}
    (hfull : scope ≠ 0) (htraffic : scope ≠ 1) (hp : r.payload = [0x03, scope]) :
    exec .resetTraffic s = .next { s with link := s.link.replied r .range [] } := by
  rw [exec_resetTraffic]
  exact row_refused h hp (requestCommand_resetTraffic hfull) rfl rfl (if_neg htraffic)

/-- Settles O5: the state after `State.trafficReset`, block by block. -/
theorem resetTraffic : Obligations.ResetTraffic := by
  intro s r rest h
  refine ⟨fun hp => ⟨_, resetTraffic_answers h hp, rfl, rfl, rfl, rfl, rfl, rfl, rfl, rfl, fun n =>
    ⟨(s.port n).release.pair, ?port⟩, rfl, queue_trafficReset s, rfl, stream_trafficReset s, rfl⟩,
    fun scope => resetTraffic_refused h⟩
  exact port_trafficReset s n

theorem exec_resetFull (s : State) :
    exec .resetFull s = s.happen (State.carryOut .resetFull fun _ s => .holdForReset s) := rfl

/-- R153: the answer OK, with the request held for the reset. -/
theorem resetFull_answers {s : State} {r : Request} {rest : List Request} (h : s.Offers r rest)
    (hp : r.payload = [0x03, 0x00]) :
    exec .resetFull s = .next { s with link := { s.link.replied r .ok [] with
      executing := some ⟨r, .resetReply⟩
      replies := s.link.replies ++ [{ replyTo r .ok [] with endsReset := true }] } } := by
  rw [exec_resetFull, happen_running _ h.running,
    carryOut_rule h _ (by rw [hp]; rfl) (by rw [hp]; rfl) rfl]
  simp [State.conclude, State.answeredAndHeld, State.answered, State.startExecuting, HostLink.replied, cacheReply, replyPayload, replyTo,
    byteAt, hp, h.free, h.waiting, Config.cachedReplies]

theorem exec_linkFrameComplete {s : State} {f : TransmitFrame} (hrunning : s.held = false)
    (hframe : s.link.transmitter = some f) (hsent : s.frameSent f = true) :
    exec .linkFrameComplete s = .next { s with link := { s.link with
      transmitter := none
      executing := if f.endsReset then s.link.executing.map fun e => { e with hold := .resetDue }
        else s.link.executing } } := by
  rw [show exec .linkFrameComplete s = execLinkFrameComplete s from rfl, execLinkFrameComplete,
    happen_running _ hrunning]
  simp [hframe, hsent]

theorem exec_resetFullTakesEffect (s : State) :
    exec .resetFullTakesEffect s = s.happen fun s => if s.resetTakesEffectNow then s.fullReset else s := rfl

/-- Settles O6: the answer, the frame that makes the reset due, and the power-on values it takes. -/
theorem resetFull : Obligations.ResetFull := by
  refine ⟨fun s r rest h hp => resetFull_answers h hp, fun s r f hrunning hheld hframe hends hsent => ?frame,
    fun s r hrunning hdue => ⟨_, resetFullTakesEffect_due hrunning hdue, rfl, fun n => ⟨_, port_fullReset s n⟩⟩,
    fun s hrunning hfree => ?free⟩
  case frame =>
    rw [exec_linkFrameComplete hrunning hframe hsent]
    simp [hends, hheld]
  case free =>
    have hnone : s.resetTakesEffectNow = false := by simp [State.resetTakesEffectNow, State.resetDue, hfree]
    rw [exec_resetFullTakesEffect, happen_running _ hrunning, if_neg (by simp [hnone])]

/-! ### PULSE edges (R89 to R91) -/

theorem reached_iff (s : State) (moment : Nat) : s.reached moment = true ↔ moment ≤ s.time.runClock := decide_eq_true_iff

section PulseEdge

variable {s : State}

theorem pulseEdge_ignored (hrunning : s.held = false) {last : Nat} (hlast : s.time.lastEdge = some last)
    (hearly : s.time.runClock < last + 500000) : exec .pulseEdge s = .next s.ignoreEdge := by
  have hignored : s.time.edgeTaken = false := by
    rw [TimeBase.edgeTaken, hlast]
    exact decide_eq_false (Nat.not_le.2 hearly)
  rw [exec_pulseEdge, happen_running _ hrunning, if_neg (by simp [hignored])]

theorem pulseEdge_taken (hrunning : s.held = false)
    (hspaced : ∀ last, s.time.lastEdge = some last → last + 500000 ≤ s.time.runClock) :
    exec .pulseEdge s = .next s.takeEdge := by
  have htaken : s.time.edgeTaken = true := by
    cases hlast : s.time.lastEdge with
    | none => rw [TimeBase.edgeTaken, hlast]
    | some last =>
      rw [TimeBase.edgeTaken, hlast]
      exact decide_eq_true (hspaced last hlast)
  rw [exec_pulseEdge, happen_running _ hrunning, if_pos htaken]

/-- Settles O7: an edge too early is ignored, one in FREE loads nothing. -/
theorem pulseEdgeInFree : Obligations.PulseEdgeInFree := by
  intro s hrunning
  refine ⟨fun last hlast hearly => pulseEdge_ignored hrunning hlast hearly, fun hspaced hfree => ?_⟩
  rw [pulseEdge_taken hrunning hspaced, takeEdge_free hfree]
  rfl

end PulseEdge

/-! ### The aligning edge (R83, R90, R91) -/

section Aligning

variable {s : State} {arm : Arm}

/-- The notice of the load by an edge (R90). -/
def alignedNotice (s : State) (arm : Arm) : Notice :=
  { body := .timeAligned ((s.time.runClock - arm.start) / 1000), line := none, tag := 0
    stamp := ⟨arm.value, s.time.epoch + 1⟩ }

/-- The notice of an edge taken in ARMED (R91). -/
def alignedPulse (s : State) (arm : Arm) : Notice :=
  { body := .pulse true s.time.edgesSince, line := none, tag := 0, stamp := ⟨arm.value, s.time.epoch + 1⟩ }

/-- The queues, streams and notices that an aligning edge leaves. -/
def alignedCapture (s : State) (arm : Arm) : State :=
  ((s.load arm.value .timeAligned).queueNotice (alignedNotice s arm)).queueNoticeIf s.time.pulseNotices
    (alignedPulse s arm)

theorem queueNotice_withTime (s : State) (time : TimeBase) (x : Notice) :
    { s with time }.queueNotice x = { s.queueNotice x with time } := by
  simp only [State.queueNotice]
  split <;> rfl

theorem queueNoticeIf_withTime (s : State) (time : TimeBase) (b : Bool) (x : Notice) :
    { s with time }.queueNoticeIf b x = { s.queueNoticeIf b x with time } := by
  cases b with
  | true => exact queueNotice_withTime s time x
  | false => rfl

/-- The time base after an aligning edge (R90). -/
def alignedTime (s : State) (arm : Arm) : TimeBase :=
  { s.time with
    lineTime := arm.value, epoch := s.time.epoch + 1, arm := none, lastEdge := some s.time.runClock, edgesSince := 0 }

theorem takeEdge_armed (harm : s.time.arm = some arm) :
    s.takeEdge = { alignedCapture s arm with time := alignedTime s arm } := by
  simp only [State.takeEdge, State.alignedLoad, harm, queueNoticeIf_withTime, State.now, alignedCapture,
    alignedNotice, alignedPulse, alignedTime, Option.isSome_some]
  simp [load_time]

theorem alignedCapture_captured (s : State) (arm : Arm) :
    Captured { s with time := loadedTime s arm.value } (alignedCapture s arm) :=
  ((load_captured s _ _).trans (captured_queueNotice _ _)).trans (captured_queueNoticeIf _ _ _)

theorem alignedCapture_queue (s : State) (arm : Arm) (n : QueueNo) :
    (alignedCapture s arm).queue n = (s.load arm.value .timeAligned).queue n ∧
      (alignedCapture s arm).stream n = (s.load arm.value .timeAligned).stream n := by
  simp [alignedCapture]

theorem noticed_alignedCapture (h : NoticesWithin s) (arm : Arm) :
    s.Noticed (alignedCapture s arm)
      (((List.finRange 13).map (s.fullNotice ⟨arm.value, s.time.epoch + 1⟩)).flatten ++
        alignedNotice s arm :: if s.time.pulseNotices then [alignedPulse s arm] else []) := by
  have hload := noticed_load h arm.value .timeAligned
  have haligned := noticed_trans hload (noticed_queueNotice (noticed_within hload) (alignedNotice s arm))
  have hpulse := noticed_trans haligned
    (noticed_queueNoticeIf (noticed_within haligned) s.time.pulseNotices (alignedPulse s arm))
  rw [alignedCapture]
  simpa only [List.append_assoc, List.singleton_append] using hpulse

end Aligning

/-- Settles O8: the load with its MARKs, and the notices in their order. -/
theorem pulseEdgeAligns : Obligations.PulseEdgeAligns := by
  intro s arm hrunning harm hspaced
  obtain ⟨queues, notices, noticeLoss, streams, hcaptured⟩ := alignedCapture_captured s arm
  refine ⟨_, (pulseEdge_taken hrunning hspaced).trans (congrArg _ (takeEdge_armed harm)), ?frame, rfl, fun n => ?marks,
    fun hnotices hloss => ?notices⟩
  case frame => rw [hcaptured]
  case marks =>
    obtain ⟨hqueue, hstream⟩ := alignedCapture_queue s arm n
    have hmarks := load_marks s arm.value .timeAligned n
    rw [← hqueue, ← hstream] at hmarks
    exact hmarks
  case notices =>
    obtain ⟨hkept, hlost⟩ := noticed_alignedCapture ⟨hnotices, hloss⟩ arm
    exact ⟨hkept, hlost⟩

/-! ### Arming (R86, R88, R91) -/

section Arming

variable {s : State} {r : Request} {rest : List Request}

theorem exec_armTime (s : State) : exec .armTime s = s.happen (State.carryOut .armTime ruleArmTime) := rfl

theorem exec_armWindowExpiry (s : State) : exec .armWindowExpiry s = execArmWindowExpiry s := rfl

theorem exec_setPulseNotice (s : State) :
    exec .setPulseNotice s = s.happen (State.carryOut .setPulseNotice ruleSetPulseNotice) := rfl

theorem exec_setTime (s : State) : exec .setTime s = s.happen (State.carryOut .setTime ruleSetTime) := rfl

/-- The two fields of ARM_TIME are read back from their bytes (section 11.2). -/
theorem armFields {value window : Nat} (hvalue : value < 2 ^ 64) (hwindow : window < 2 ^ 16) :
    numberAt (bigEndian 8 value ++ bigEndian 2 window) 0 8 = value ∧
      numberAt (bigEndian 8 value ++ bigEndian 2 window) 8 2 = window :=
  ⟨numberAt_of_eq _ [] (bigEndian 2 window) 0 8 value rfl rfl hvalue,
    numberAt_of_eq _ (bigEndian 8 value) [] 8 2 window (by simp) (by simp) hwindow⟩

theorem armTime_answers (h : s.Offers r rest) {value window : Nat} (hvalue : value < 2 ^ 64) (hwindow : window < 2 ^ 16)
    (hp : r.payload = 0x41 :: (bigEndian 8 value ++ bigEndian 2 window)) :
    exec .armTime s = .next (
      if value ≤ 9223372036854775807 ∧ 1 ≤ window ∧ window ≤ 10000 then
        { s with
          time := { s.time with
            arm := some { value, start := s.time.runClock, expiry := s.time.runClock + window * 1000 } }
          link := s.link.replied r .ok (bigEndian 8 (s.time.runClock + window * 1000)) }
      else { s with link := s.link.replied r .range [] }) := by
  obtain ⟨hfirst, hsecond⟩ := armFields hvalue hwindow
  have hlength : (0x41 :: (bigEndian 8 value ++ bigEndian 2 window)).length = requestLength .armTime := by
    rw [List.length_cons, List.length_append, bigEndian_length, bigEndian_length]
    rfl
  rw [exec_armTime]
  split
  next hin =>
    have hrule : ruleArmTime (bigEndian 8 value ++ bigEndian 2 window) (s.startExecuting r) =
        .ok { s.startExecuting r with time := { s.time with
          arm := some { value, start := s.time.runClock, expiry := s.time.runClock + window * 1000 } } }
          (bigEndian 8 (s.time.runClock + window * 1000)) := by
      rw [ruleArmTime, hfirst, hsecond, if_neg (by simp only [Config.largestLineTime]; omega)]
      rfl
    exact row_ok h hp rfl hlength rfl hrule rfl
  next hout =>
    refine row_refused h hp rfl hlength rfl ?_
    rw [ruleArmTime, hfirst, hsecond, if_pos (by simp only [Config.largestLineTime]; omega)]

theorem armWindowExpiry_armed {arm : Arm} (hrunning : s.held = false) (harm : s.time.arm = some arm) :
    exec .armWindowExpiry s = .next (
      if arm.expiry ≤ s.time.runClock then
        { s with time := { s.time with arm := none } }.queueNotice
          { body := .armExpired ((arm.expiry - arm.start) / 1000), line := none, tag := 0
            stamp := ⟨s.time.lineTime, s.time.epoch⟩ }
      else s) := by
  rw [exec_armWindowExpiry, execArmWindowExpiry, happen_running _ hrunning]
  simp only [State.armExpiryDue, State.expireArm, harm, State.now]
  split
  next h => rw [if_pos ((reached_iff _ _).1 h)]
  next h => rw [if_neg fun hreached => h ((reached_iff _ _).2 hreached)]

theorem armWindowExpiry_free (hfree : s.time.arm = none) : exec .armWindowExpiry s = .next s := by
  have hnot : s.armExpiryDue = false := by simp [State.armExpiryDue, hfree]
  rw [exec_armWindowExpiry, execArmWindowExpiry, State.happen]
  simp [hnot]

/-- The byte of a switch is 0 or 1, as 1 says (Table 11-5). -/
theorem yesNoOf_eq (b : Byte) : yesNoOf b = if b = 0 ∨ b = 1 then some (b == 1) else none := by
  revert b
  decide

theorem setPulseNotice_answers (h : s.Offers r rest) {switch : Byte} (hp : r.payload = [0x44, switch]) :
    exec .setPulseNotice s = .next (
      if switch = 0 ∨ switch = 1 then
        { s with time := { s.time with pulseNotices := switch == 1 }, link := s.link.replied r .ok [] }
      else { s with link := s.link.replied r .range [] }) := by
  rw [exec_setPulseNotice]
  have hread := yesNoOf_eq switch
  split
  next hin =>
    rw [if_pos hin] at hread
    have hrule : ruleSetPulseNotice [switch] (s.startExecuting r) =
        .ok { s.startExecuting r with time := { s.time with pulseNotices := switch == 1 } } [] := by
      simp [ruleSetPulseNotice, byteAt, hread]
    exact row_ok h hp rfl rfl rfl hrule rfl
  next hout =>
    rw [if_neg hout] at hread
    refine row_refused h hp rfl rfl rfl ?_
    simp [ruleSetPulseNotice, byteAt, hread]

end Arming

/-- Settles O9: the three rows by their own lemmas. -/
theorem armWindowAndSwitch : Obligations.ArmWindowAndSwitch :=
  ⟨fun _ _ _ _ _ h hvalue hwindow hp => armTime_answers h hvalue hwindow hp,
    fun _ _ hrunning harm => armWindowExpiry_armed hrunning harm, fun _ hfree => armWindowExpiry_free hfree,
    fun _ _ _ _ h hp => setPulseNotice_answers h hp⟩

/-! ### SET_TIME (R85) -/

section SetTime

variable {s : State} {r : Request} {rest : List Request} {value : Nat}

theorem setTime_length : (0x40 :: bigEndian 8 value).length = requestLength .setTime := by
  rw [List.length_cons, bigEndian_length]
  rfl

theorem numberAt_value (hvalue : value < 2 ^ 64) : numberAt (bigEndian 8 value) 0 8 = value :=
  numberAt_of_eq _ [] [] 0 8 value (by simp) rfl hvalue

theorem setTime_range (h : s.Offers r rest) (hvalue : value < 2 ^ 64) (hp : r.payload = 0x40 :: bigEndian 8 value)
    (hout : 9223372036854775807 < value) :
    exec .setTime s = .next { s with link := s.link.replied r .range [] } := by
  rw [exec_setTime]
  refine row_refused h hp rfl setTime_length rfl ?_
  rw [ruleSetTime, numberAt_value hvalue]
  exact if_pos hout

theorem setTime_answers (h : s.Offers r rest) (hvalue : value < 2 ^ 64) (hp : r.payload = 0x40 :: bigEndian 8 value)
    (hin : value ≤ 9223372036854775807) :
    exec .setTime s = .next { (s.startExecuting r).load value .timeSet with
      link := s.link.replied r .ok
        (bigEndian 8 s.time.lineTime ++ [s.time.epoch + 1] ++ bigEndian 8 s.time.runClock) } := by
  have hrule : ruleSetTime (bigEndian 8 value) (s.startExecuting r) = .ok ((s.startExecuting r).load value .timeSet)
      (bigEndian 8 s.time.lineTime ++ [s.time.epoch + 1] ++ bigEndian 8 s.time.runClock) := by
    rw [ruleSetTime, numberAt_value hvalue]
    refine (if_neg (Nat.not_lt.2 hin)).trans ?_
    simp only [load_time]
    rfl
  rw [exec_setTime]
  exact row_ok h hp rfl setTime_length rfl hrule (load_link _ _ _)

theorem startExecuting_stream (s : State) (r : Request) (n : QueueNo) : (s.startExecuting r).stream n = s.stream n := rfl

theorem startExecuting_fullNotice (s : State) (r : Request) (stamp : Stamp) :
    (s.startExecuting r).fullNotice stamp = s.fullNotice stamp :=
  funext fun n => fullNotice_congr stamp (startExecuting_queue s r n)

end SetTime

/-- Settles O10: the load that the rule makes, with its MARKs and their notices. -/
theorem setTime : Obligations.SetTime := by
  intro s r rest value h hvalue hp
  refine ⟨fun hin => ⟨_, setTime_answers h hvalue hp hin, ?frame, fun n => ?marks, fun hnotices hloss => ?notices⟩,
    fun hout => setTime_range h hvalue hp hout⟩
  case frame =>
    obtain ⟨queues, notices, noticeLoss, streams, hcaptured⟩ := load_captured (s.startExecuting r) value .timeSet
    rw [hcaptured]
    rfl
  case marks =>
    have hmarks := load_marks (s.startExecuting r) value .timeSet n
    rw [startExecuting_queue, startExecuting_stream, startExecuting_time] at hmarks
    generalize (s.startExecuting r).load value .timeSet = loaded at hmarks ⊢
    exact hmarks
  case notices =>
    have hwithin : NoticesWithin (s.startExecuting r) := ⟨hnotices, hloss⟩
    obtain ⟨hkept, hlost⟩ := noticed_load hwithin value .timeSet
    rw [startExecuting_fullNotice, startExecuting_time, startExecuting_reports] at hkept hlost
    generalize (s.startExecuting r).load value .timeSet = loaded at hkept hlost ⊢
    exact ⟨hkept, hlost⟩

end Sys2Proof.Proofs
end

section
/-! PROOFS. The receiver, damaged and good words, and the arrival intake (R1 to R17): O13 to O15. -/

namespace Sys2Proof.Proofs

-- One theorem after another: elaborating them all at once costs a thread and its stack for each.
set_option Elab.async false

open Sys2Proof.Machine Sys2Proof.Laws

/-! ### Ports written twice -/

theorem withPort_withPort (s : State) (n : LineNo) (p q : Port) : (s.withPort n p).withPort n q = s.withPort n q := by
  simp [State.withPort]

theorem countLine_withPort (s : State) (n : LineNo) (p : Port) (f : LineCounters → LineCounters) :
    (s.withPort n p).countLine n f = s.withPort n { p with counters := f p.counters } := by
  rw [State.countLine, State.mapPort, withPort_withPort, port_withPort_eq, if_pos rfl]

theorem queueNotice_withPort (s : State) (n : LineNo) (p : Port) (x : Notice) :
    (s.queueNotice x).withPort n p = (s.withPort n p).queueNotice x := by
  unfold State.queueNotice
  rw [withPort_reports]
  split <;> rfl

/-! ### Bits (R1, R3, R7) -/

theorem bitOfHalves_eq (first second : Polarity) :
    bitOfHalves first second = if first = second then none else some (first == .positive) := by
  cases first <;> cases second <;> rfl

theorem bitOfHalves_halfBits (bit : Bool) : bitOfHalves (halfBits bit).1 (halfBits bit).2 = some bit := by
  cases bit <;> rfl

/-- One bit shifted to its position. -/
theorem shiftedBit_getMsbD (bit : Bool) {count k : Nat} (hcount : count < 40) (hk : k < 40) :
    ((BitVec.ofBool bit).setWidth 40 <<< (39 - count)).getMsbD k = (decide (k = count) && bit) := by
  rw [BitVec.getMsbD_shiftLeft, BitVec.getMsbD_eq_getLsbD, BitVec.getLsbD_setWidth, BitVec.getLsbD_ofBool]
  by_cases h : k = count
  · subst h
    have hlast : k + (39 - k) = 39 := by omega
    simp [hlast]
  · simp [h]
    omega

/-- A bit lands in its own position, and only there (R1, R7). -/
theorem placeBit_getMsbD (count : Nat) (bit : Bool) (bits : LineBits) {k : Nat} (hk : k < 40)
    (hempty : bits.getMsbD count = false) :
    (placeBit count bit bits).getMsbD k = if k = count then bit else bits.getMsbD k := by
  rw [placeBit]
  by_cases hcount : count < 40
  · rw [if_pos hcount, BitVec.getMsbD_or, shiftedBit_getMsbD bit hcount hk]
    by_cases heq : k = count
    · simp [heq, hempty]
    · simp [heq]
  · rw [if_neg hcount, if_neg (by omega)]

/-- The positions after the first `count` bits of a word were decoded. -/
def decoded (bits : LineBits) (count : Nat) : LineBits :=
  (List.range count).foldl (fun acc k => placeBit k (bits.getMsbD k) acc) 0

theorem decoded_succ (bits : LineBits) (count : Nat) :
    decoded bits (count + 1) = placeBit count (bits.getMsbD count) (decoded bits count) := by
  simp [decoded, List.range_succ]

theorem decoded_getMsbD (bits : LineBits) (count k : Nat) (hcount : count ≤ 40) (hk : k < 40) :
    (decoded bits count).getMsbD k = (decide (k < count) && bits.getMsbD k) := by
  induction count generalizing k with
  | zero => simp [decoded]
  | succ count ih =>
    rw [decoded_succ, placeBit_getMsbD count _ _ hk (by rw [ih count (by omega) (by omega)]; simp), ih k (by omega) hk]
    by_cases heq : k = count
    · simp [heq]
    · rw [if_neg heq]
      congr 2
      simp
      omega

theorem decoded_all (bits : LineBits) : decoded bits 40 = bits := by
  refine BitVec.eq_of_getMsbD_eq fun k hk => ?_
  rw [decoded_getMsbD bits 40 k le_rfl hk, decide_eq_true hk, Bool.true_and]

/-! ### The receiver's commands (R6, R7) -/

section Receiver

variable {s : State} {n : LineNo}

theorem exec_firstEdge (hrunning : s.held = false) (sense : Polarity) :
    exec (.firstEdge n sense) s = .next (s.withPort n { s.port n with
      pair := some sense
      receiver := if (s.port n).receiver = .idle false then .inWord 0 0 else (s.port n).receiver }) := by
  rw [show exec (.firstEdge n sense) s = execFirstEdge n sense s from rfl, execFirstEdge, happen_running _ hrunning,
    State.mapPort]
  congr 4
  split
  next h => rw [h, if_pos rfl]
  next h => rw [if_neg h]

theorem exec_bitDecoded (hrunning : s.held = false) (first second : Polarity) :
    exec (.bitDecoded n first second) s = .next (s.withPort n { s.port n with
      pair := (s.port n).pair.map fun _ => second
      receiver := (s.port n).receiver.takeBit first second }) := by
  rw [show exec (.bitDecoded n first second) s = execBitDecoded n first second s from rfl, execBitDecoded,
    happen_running _ hrunning, State.mapPort]

theorem takeBit_inWord (count : Nat) (bits : LineBits) (first second : Polarity) :
    (Receiver.inWord count bits).takeBit first second =
      if first = second then .discarding count bits
      else .inWord (count + 1) (placeBit count (first == .positive) bits) := by
  simp only [Receiver.takeBit, bitOfHalves_eq]
  by_cases hsame : first = second
  · simp [hsame]
  · simp [hsame]

theorem takeBit_other {receiver : Receiver} (h : ∀ count bits, receiver ≠ .inWord count bits) (first second : Polarity) :
    receiver.takeBit first second = receiver := by
  cases receiver with
  | inWord count bits => exact absurd rfl (h count bits)
  | dormant => rfl
  | idle missed => rfl
  | discarding count bits => rfl

theorem exec_codingViolation (hrunning : s.held = false) {count : Nat} {bits : LineBits}
    (hword : (s.port n).receiver = .inWord count bits) :
    exec (.codingViolation n) s =
      .next (s.withPort n { s.port n with receiver := .discarding count bits }) := by
  rw [show exec (.codingViolation n) s = execCodingViolation n s from rfl, execCodingViolation,
    happen_running _ hrunning, State.mapPort, hword]

theorem exec_missedWordEnded (hrunning : s.held = false) {missed : Bool}
    (hidle : (s.port n).receiver = .idle missed) :
    exec (.missedWordEnded n) s =
      .next (s.withPort n { s.port n with pair := none, receiver := .idle false }) := by
  rw [show exec (.missedWordEnded n) s = execMissedWordEnded n s from rfl, execMissedWordEnded,
    happen_running _ hrunning, State.mapPort, hidle]

/-- The port whose word has ended. -/
def endedPort (p : Port) : Port := { p with pair := none, receiver := .idle false }

/-- The outcome of a word that ends goes by the line's role (R8, R9, R12). -/
theorem exec_endOfWord (hrunning : s.held = false) {kind : OutcomeKind} {bits : LineBits}
    (hend : (s.port n).receiver.wordEnd = some (kind, bits)) :
    exec (.endOfWord n) s = .next (
      if (s.port n).config.role = .echo then
        (s.withPort n (endedPort (s.port n))).echoOutcome n { kind, bits, stamp := s.now }
      else (s.withPort n (endedPort (s.port n))).receiveOutcome n { kind, bits, stamp := s.now }) := by
  rw [show exec (.endOfWord n) s = execEndOfWord n s from rfl, execEndOfWord, happen_running _ hrunning]
  simp only [hend, endedPort]

end Receiver

/-- Settles O13: one equation for each command, and the position of a bit. -/
theorem receiverStates : Obligations.ReceiverStates := by
  intro s n hrunning
  refine ⟨exec_firstEdge hrunning, fun count bits first second hword => ?_, fun first second hother => ?_,
    fun count bits => exec_codingViolation hrunning, fun missed => exec_missedWordEnded hrunning,
    fun count bit bits k => placeBit_getMsbD count bit bits⟩
  · rw [exec_bitDecoded hrunning, hword, takeBit_inWord]
  · rw [exec_bitDecoded hrunning, takeBit_other hother]

/-! ### The place of an item in the intake (R16) -/

/-- An item enters between those it does not come before and those it comes before. -/
theorem enterIntake_between (epoch : Byte) (item : Item) (earlier later : List Item)
    (hearlier : ∀ other ∈ earlier, ¬ (other.offeredAt = item.offeredAt ∧ item.entersBefore epoch other = true))
    (hlater : ∀ other ∈ later, other.offeredAt = item.offeredAt ∧ item.entersBefore epoch other = true) :
    enterIntake epoch item (earlier ++ later) = earlier ++ item :: later := by
  have hdrop : ((earlier ++ later).reverse.dropWhile
      fun other : Item => other.offeredAt == item.offeredAt && item.entersBefore epoch other) = earlier.reverse := by
    rw [List.reverse_append, List.dropWhile_append_of_pos (by simpa using hlater), List.dropWhile_eq_self_iff]
    intro hl
    have hlast := hearlier _ (List.mem_reverse.1 (List.getElem_mem hl))
    simpa using hlast
  simp only [enterIntake, hdrop, List.reverse_reverse, List.drop_left]

/-- R16: what places an item before another one of its microsecond. -/
theorem entersBefore_iff (epoch : Byte) (item other : Item) :
    item.entersBefore epoch other = true ↔
      (epoch - other.stamp.epoch).toNat < (epoch - item.stamp.epoch).toNat ∨
        other.stamp.epoch = item.stamp.epoch ∧ item.line < other.line := by
  have hload : (epoch - other.stamp.epoch).toNat = (epoch - item.stamp.epoch).toNat ↔
      other.stamp.epoch = item.stamp.epoch := by
    rw [BitVec.toNat_inj, sub_right_inj]
  simp only [Item.entersBefore, Bool.or_eq_true, Bool.and_eq_true, decide_eq_true_eq]
  simp only [Stamp.loadsSince, hload]

/-- An item with the present stamp comes before those of its microsecond and epoch on higher ports alone. -/
theorem entersBefore_now (epoch : Byte) {item : Item} (hitem : item.stamp.epoch = epoch) (other : Item) :
    item.entersBefore epoch other = true ↔ other.stamp.epoch = epoch ∧ item.line < other.line := by
  rw [entersBefore_iff, hitem]
  simp

theorem offerItem_between {s : State} {item : Item} {earlier later : List Item} (hintake : s.intake = earlier ++ later)
    (hroom : s.intake.length < 16)
    (hearlier : ∀ other ∈ earlier,
      ¬ (other.offeredAt = item.offeredAt ∧ item.entersBefore s.time.epoch other = true))
    (hlater : ∀ other ∈ later, other.offeredAt = item.offeredAt ∧ item.entersBefore s.time.epoch other = true) :
    s.offerItem item = { s with intake := earlier ++ item :: later } := by
  rw [offerItem_room s item hroom, hintake, enterIntake_between _ item earlier later hearlier hlater]

theorem offerItem_refuses {s : State} {item refused : Item} {earlier later kept : List Item}
    (hintake : s.intake = earlier ++ later) (hfull : s.intake.length = 16)
    (hearlier : ∀ other ∈ earlier,
      ¬ (other.offeredAt = item.offeredAt ∧ item.entersBefore s.time.epoch other = true))
    (hlater : ∀ other ∈ later, other.offeredAt = item.offeredAt ∧ item.entersBefore s.time.epoch other = true)
    (hlast : earlier ++ item :: later = kept ++ [refused]) :
    s.offerItem item = ({ s with intake := kept }.withPort refused.line { s.port refused.line with
        counters := { (s.port refused.line).counters with
          intakeOverruns := (s.port refused.line).counters.intakeOverruns + 1 } }).placeStartMarks
      refused.line refused.marks := by
  refine offerItem_last_refused s item refused kept hfull ?_
  rw [hintake, enterIntake_between _ item earlier later hearlier hlater, hlast]

/-! ### A good word from its first edge to its end (R1 to R3, R8, R9) -/

/-- The commands that decode the first bits of a word. -/
def bitCommands (n : LineNo) (bits : LineBits) (count : Nat) : List Instr :=
  (List.range count).map fun k => .bitDecoded n (halfBits (bits.getMsbD k)).1 (halfBits (bits.getMsbD k)).2

theorem bitCommands_all (n : LineNo) (bits : LineBits) :
    (wordHalfBits bits).map (fun h => Instr.bitDecoded n h.1 h.2) = bitCommands n bits 40 := by
  simp [wordHalfBits, bitCommands, Function.comp_def]

theorem bitCommands_succ (n : LineNo) (bits : LineBits) (count : Nat) :
    bitCommands n bits (count + 1) = bitCommands n bits count ++
      [.bitDecoded n (halfBits (bits.getMsbD count)).1 (halfBits (bits.getMsbD count)).2] := by
  simp [bitCommands, List.range_succ]

theorem runCommands_singleton {c : Instr} {s t : State} (h : exec c s = .next t) : runCommands [c] s = .next t := by
  rw [runCommands, h]
  rfl

/-- The port part-way through a word. -/
def receivingPort (p : Port) (pair : Option Polarity) (bits : LineBits) (count : Nat) : Port :=
  { p with pair, receiver := .inWord count (decoded bits count) }

/-- A bit in the coding of R3 is decoded to itself. -/
theorem takeBit_halfBits (count : Nat) (bits : LineBits) (bit : Bool) :
    (Receiver.inWord count bits).takeBit (halfBits bit).1 (halfBits bit).2 =
      .inWord (count + 1) (placeBit count bit bits) := by
  simp only [Receiver.takeBit, bitOfHalves_halfBits]

/-- The bits of a word, decoded one by one. -/
theorem runCommands_bits {s : State} (hrunning : s.held = false) (n : LineNo) (p : Port) (bits : LineBits)
    (pair : Option Polarity) (count : Nat) :
    ∃ after, runCommands (bitCommands n bits count) (s.withPort n (receivingPort p pair bits 0)) =
      .next (s.withPort n (receivingPort p after bits count)) := by
  induction count with
  | zero => exact ⟨pair, rfl⟩
  | succ count ih =>
    obtain ⟨after, hrun⟩ := ih
    have hbit := exec_bitDecoded (s := s.withPort n (receivingPort p after bits count)) (n := n) hrunning
      (halfBits (bits.getMsbD count)).1 (halfBits (bits.getMsbD count)).2
    rw [port_withPort, withPort_withPort] at hbit
    refine ⟨after.map fun _ => (halfBits (bits.getMsbD count)).2, ?_⟩
    rw [bitCommands_succ, runCommands_append _ _ hrun, runCommands_singleton hbit]
    simp only [receivingPort, takeBit_halfBits, decoded_succ]

/-- The port that received a good word whole. -/
def countedPort (p : Port) : Port :=
  { endedPort p with counters := { p.counters with wordsReceived := p.counters.wordsReceived + 1 } }

/-- The item of a good word. -/
def wordItem (s : State) (n : LineNo) (bits : LineBits) : Item :=
  { kind := .word, line := n, bits, stamp := s.now, offeredAt := s.time.runClock }

/-- R9: a good word on a RECEIVE line is counted and offered to the intake. -/
theorem exec_endOfWord_good {s : State} {n : LineNo} {bits : LineBits} (hrunning : s.held = false)
    (hword : (s.port n).receiver = .inWord 40 bits) (hrole : (s.port n).config.role = .receive)
    (hcheck : lineCheck bits = checkOf (lineTag bits) (lineValue bits)) :
    exec (.endOfWord n) s = .next ((s.withPort n (countedPort (s.port n))).offerItem (wordItem s n bits)) := by
  have hend : (s.port n).receiver.wordEnd = some (.word, bits) := by
    simp [hword, Receiver.wordEnd, outcomeInWord, checkAgrees, hcheck]
  rw [exec_endOfWord hrunning hend, if_neg (by simp [hrole])]
  simp only [State.receiveOutcome, countLine_withPort]
  rfl

/-- The place of a good word among the items of its microsecond. -/
theorem wordItem_place {s : State} {n : LineNo} {bits : LineBits} {earlier later : List Item}
    (hearlier : ∀ other ∈ earlier, other.offeredAt = s.time.runClock →
      other.line ≤ n ∨ other.stamp.epoch ≠ s.time.epoch)
    (hlater : ∀ other ∈ later,
      other.offeredAt = s.time.runClock ∧ n < other.line ∧ other.stamp.epoch = s.time.epoch) :
    (∀ other ∈ earlier, ¬ (other.offeredAt = (wordItem s n bits).offeredAt ∧
      (wordItem s n bits).entersBefore s.time.epoch other = true)) ∧
    ∀ other ∈ later, other.offeredAt = (wordItem s n bits).offeredAt ∧
      (wordItem s n bits).entersBefore s.time.epoch other = true := by
  have hnow : ∀ other, (wordItem s n bits).entersBefore s.time.epoch other = true ↔
      other.stamp.epoch = s.time.epoch ∧ n < other.line := entersBefore_now s.time.epoch rfl
  refine ⟨fun other hother => ?_, fun other hother => ?_⟩
  · rw [hnow]
    rintro ⟨hmoment, hepoch, hline⟩
    rcases hearlier other hother hmoment with hle | hne
    · exact absurd hline (not_lt.2 hle)
    · exact hne hepoch
  · rw [hnow]
    obtain ⟨hmoment, hline, hepoch⟩ := hlater other hother
    exact ⟨hmoment, hepoch, hline⟩

/-- Settles O14: the first edge, the bits one by one, and the end of the word. -/
theorem wordReceived : Obligations.WordReceived := by
  intro s n sense bits earlier later hrunning hidle hrole hcheck hintake hroom hearlier hlater
  obtain ⟨after, hbits⟩ := runCommands_bits hrunning n (s.port n) bits (some sense) 40
  have hedge : runCommands [.firstEdge n sense] s =
      .next (s.withPort n (receivingPort (s.port n) (some sense) bits 0)) := by
    rw [runCommands_singleton (exec_firstEdge hrunning sense), if_pos hidle]
    rfl
  rw [bitCommands_all, ← List.singleton_append, List.append_assoc, runCommands_append _ _ hedge,
    runCommands_append _ _ hbits]
  have hreceived : ((s.withPort n (receivingPort (s.port n) after bits 40)).port n).receiver = .inWord 40 bits := by
    rw [port_withPort, receivingPort, decoded_all]
  have hgood := exec_endOfWord_good (s := s.withPort n (receivingPort (s.port n) after bits 40)) hrunning hreceived
    (by rw [port_withPort]; exact hrole) hcheck
  rw [runCommands_singleton hgood, withPort_withPort, port_withPort]
  obtain ⟨hbefore, hafter⟩ := wordItem_place (bits := bits) hearlier hlater
  have hentered := offerItem_between (s := s.withPort n (countedPort (receivingPort (s.port n) after bits 40)))
    (item := wordItem s n bits) hintake hroom hbefore hafter
  have hport : countedPort (receivingPort (s.port n) after bits 40) = { s.port n with
      pair := none
      counters := { (s.port n).counters with wordsReceived := (s.port n).counters.wordsReceived + 1 } } := by
    rw [countedPort, endedPort, receivingPort, ← hidle]
  rw [hport] at hentered ⊢
  exact congrArg _ hentered

/-! ### Damaged words, and the item a full intake refuses (R8 to R11, R17) -/

/-- What a damaged word does on a RECEIVE line. -/
theorem exec_endOfWord_damaged {s : State} {n : LineNo} {kind : ErrorKind} {recorded : Nat} {bits : LineBits}
    (hrunning : s.held = false) (hrole : (s.port n).config.role = .receive)
    (hend : (s.port n).receiver.wordEnd = some (.error kind recorded, bits)) :
    exec (.endOfWord n) s = .next (
      let noticed := (s.withPort n { endedPort (s.port n) with
          counters := (s.port n).counters.countError kind }).queueNoticeIf (s.port n).config.errorNotice
        { body := .lineError kind recorded, line := some n.castSucc, tag := lineTag bits, stamp := s.now }
      if (s.port n).config.captureErrors then
        noticed.offerItem
          { kind := .errorWord kind recorded, line := n, bits, stamp := s.now, offeredAt := s.time.runClock }
      else noticed) := by
  rw [exec_endOfWord hrunning hend, if_neg (by simp [hrole])]
  simp only [State.receiveOutcome, countLine_withPort, port_withPort]
  rfl

/-- The three kinds of damage (R8). -/
theorem wordEnd_damaged {receiver : Receiver} {count : Nat} {bits : LineBits} {kind : ErrorKind} {recorded : Nat}
    (h : receiver = .inWord count bits ∧ count ≠ 40 ∧ kind = .length ∧ recorded = min count 63 ∨
      receiver = .inWord 40 bits ∧ lineCheck bits ≠ checkOf (lineTag bits) (lineValue bits) ∧
        kind = .check ∧ recorded = 40 ∨
      receiver = .discarding count bits ∧ kind = .code ∧ recorded = min count 63) :
    receiver.wordEnd = some (.error kind recorded, bits) := by
  rcases h with ⟨rfl, hcount, rfl, rfl⟩ | ⟨rfl, hcheck, rfl, rfl⟩ | ⟨rfl, rfl, rfl⟩
  · simp [Receiver.wordEnd, outcomeInWord, hcount]
  · simp [Receiver.wordEnd, outcomeInWord, checkAgrees, hcheck]
  · rfl

/-- Settles O15: the damaged word by kind, the place of an item, and the last item of seventeen. -/
theorem damagedAndRefusedWords : Obligations.DamagedAndRefusedWords := by
  refine ⟨fun s n count bits kind recorded hrunning hrole hend => ?damaged,
    fun s item earlier later hintake hroom => ?between,
    fun s item refused earlier later kept hintake hfull => ?refuses,
    fun s n bits earlier later hrunning hword hrole hcheck hintake hfull hearlier hlater => ?good⟩
  case damaged =>
    rw [exec_endOfWord_damaged hrunning hrole (wordEnd_damaged hend)]
    cases kind <;> rfl
  case between =>
    intro after hearlier hlater
    refine offerItem_between hintake hroom (fun other hother => ?_) fun other hother => ?_
    · rw [entersBefore_iff]
      exact hearlier other hother
    · rw [entersBefore_iff]
      exact hlater other hother
  case refuses =>
    intro after hearlier hlater
    refine offerItem_refuses hintake hfull (fun other hother => ?_) fun other hother => ?_
    · rw [entersBefore_iff]
      exact hearlier other hother
    · rw [entersBefore_iff]
      exact hlater other hother
  case good =>
    obtain ⟨hbefore, hafter⟩ := wordItem_place (bits := bits) hearlier hlater
    have hrefuses := fun kept refused => offerItem_refuses (s := s.withPort n (countedPort (s.port n)))
      (item := wordItem s n bits) (kept := kept) (refused := refused) hintake hfull hbefore hafter
    rw [exec_endOfWord_good hrunning hword hrole hcheck]
    refine ⟨fun hlast => ?_, fun before refused hlast => ?_⟩
    · subst hlast
      rw [List.append_nil] at hintake
      rw [hrefuses earlier (wordItem s n bits) rfl, ← hintake]
      simp only [wordItem, placeStartMarks_nil, port_withPort]
      exact congrArg Host.Outcome.next (withPort_withPort s n (countedPort (s.port n)) _)
    · have hline : refused.line ≠ n :=
        (hlater refused (by simp [hlast])).2.1.ne'
      rw [hrefuses (earlier ++ wordItem s n bits :: before) refused (by simp [hlast]),
        port_withPort_ne s n refused.line _ hline]
      rfl

end Sys2Proof.Proofs
end

section
/-! PROOFS. The echo comparator (R12, R116 to R122): O16 to O18; and the end of a stop (R133, R134): O21. -/

namespace Sys2Proof.Proofs

-- One theorem after another: elaborating them all at once costs a thread and its stack for each.
set_option Elab.async false

open Sys2Proof.Machine Sys2Proof.Laws

theorem withPort_self (s : State) (n : LineNo) : s.withPort n (s.port n) = s := by
  simp [State.withPort, State.port]

theorem countLine_eq (s : State) (n : LineNo) (f : LineCounters → LineCounters) :
    s.countLine n f = s.withPort n { s.port n with counters := f (s.port n).counters } := rfl

/-! ### The outcome of a word, and its judgement (R8, R117) -/

theorem wordEnd_of_endsAs {receiver : Receiver} {kind : OutcomeKind} {bits : LineBits} (h : receiver.EndsAs kind bits) :
    receiver.wordEnd = some (kind, bits) := by
  rcases h with ⟨rfl, hcheck, rfl⟩ | ⟨rfl, hcheck, rfl⟩ | ⟨count, rfl, hcount, rfl⟩ | ⟨count, rfl, rfl⟩
  · simp [Receiver.wordEnd, outcomeInWord, checkAgrees, hcheck]
  · simp [Receiver.wordEnd, outcomeInWord, checkAgrees, hcheck]
  · simp [Receiver.wordEnd, outcomeInWord, hcount]
  · rfl

theorem judge_of_judgedAs {word : LineBits} {outcome : ReceiverOutcome} {judgement : Judgement}
    (h : JudgedAs word outcome.kind outcome.bits judgement) : judge word outcome = judgement := by
  rcases h with ⟨hkind, hbits, rfl⟩ | ⟨hkind, hbits, rfl⟩ | ⟨error, count, hkind, rfl⟩
  · simp [judge, hkind, hbits]
  · simp [judge, hkind, hbits]
  · simp [judge, hkind]

section Echo

variable {s : State} {n : LineNo} {command : Instr} {word : LineBits} {judgement : Judgement} {stamp : Stamp} {p : Port}

/-- A word that ends on an ECHO line goes to the comparator (R12, R116). -/
theorem exec_endOfWord_echo (hrunning : s.held = false) (hrole : (s.port n).config.role = .echo) {kind : OutcomeKind}
    {bits : LineBits} (hend : (s.port n).receiver.EndsAs kind bits) :
    exec (.endOfWord n) s =
      .next ((s.withPort n (endedPort (s.port n))).echoOutcome n { kind, bits, stamp := s.now }) := by
  rw [exec_endOfWord hrunning (wordEnd_of_endsAs hend), if_pos hrole]

/-- A comparator that does not wait takes no word (R12). -/
theorem echoOutcome_foreign (o : ReceiverOutcome)
    (h : (s.port n).comparator = .clear ∨ ∃ word other, (s.port n).comparator = .held word other) :
    s.echoOutcome n o = s.countLine n fun c => { c with foreignWords := c.foreignWords + 1 } := by
  rcases h with h | ⟨word, other, h⟩ <;> simp [State.echoOutcome, h]

theorem echoOutcome_held (o : ReceiverOutcome) {missing : Option Nat} {sent : LineBits} {ends : Nat}
    (hwaits : (s.port n).comparator = .waiting word missing) (hsending : (s.port n).transmitter = .sending sent ends) :
    s.echoOutcome n o = s.withPort n { s.port n with comparator := .held word o } := by
  simp [State.echoOutcome, hwaits, hsending]

theorem echoOutcome_judged (o : ReceiverOutcome) {missing : Option Nat}
    (hwaits : (s.port n).comparator = .waiting word missing)
    (hsent : ∀ other ends, (s.port n).transmitter ≠ .sending other ends) :
    s.echoOutcome n o = s.judged n word (judge word o) o.stamp := by
  rw [State.echoOutcome, hwaits]
  cases htransmitter : (s.port n).transmitter with
  | sending other ends => exact absurd htransmitter (hsent other ends)
  | dormant => rfl
  | free => rfl
  | spacing other ends => rfl

theorem exec_missingTimeReached (hrunning : s.held = false) :
    exec (.missingTimeReached n) s = .next (
      match s.missingWord n with
      | some word => s.judged n word .missing s.now
      | none => s) := by
  rw [show exec (.missingTimeReached n) s = execMissingTimeReached n s from rfl, execMissingTimeReached,
    happen_running _ hrunning] <;> rfl

theorem exec_endOfSending (hrunning : s.held = false) :
    exec (.endOfSending n) s = .next (
      if s.sendingEnded n then
        match (s.port n).comparator with
        | .held word outcome =>
          (s.mapPort n Port.endSending).judged n word (judge word outcome) outcome.stamp
        | _ => s.mapPort n Port.endSending
      else s) := by
  rw [show exec (.endOfSending n) s = execEndOfSending n s from rfl, execEndOfSending, happen_running _ hrunning] <;>
    rfl

/-- Whichever command brings a judgement, its effect is on the port that it finds. -/
theorem exec_judges (hrunning : s.held = false) (h : s.Judges n command word judgement stamp p) :
    exec command s = .next ((s.withPort n p).judged n word judgement stamp) := by
  cases h with
  | missing _ moment waits reached =>
    have hword : s.missingWord n = some word := by simp [State.missingWord, waits, (reached_iff s moment).2 reached]
    rw [exec_missingTimeReached hrunning, hword, withPort_self]
    rfl
  | readBack _ bits missing kind _ role ended waits sent judged =>
    rw [exec_endOfWord_echo hrunning role ended, echoOutcome_judged (word := word) (missing := missing)]
    · rw [judge_of_judgedAs judged]
      rfl
    · rw [port_withPort]
      exact waits
    · rw [port_withPort]
      exact sent
  | held _ other outcome ends _ sending reached holds judged =>
    have hended : s.sendingEnded n = true := by
      simp [State.sendingEnded, sending, (reached_iff s ends).2 reached]
    rw [exec_endOfSending hrunning, if_pos hended, holds]
    simp only [judge_of_judgedAs judged, State.mapPort, Port.endSending, sending, holds]

/-- A judgement finds the settings, the state and the count of the line as they were. -/
theorem judges_port (h : s.Judges n command word judgement stamp p) :
    p.config = (s.port n).config ∧ p.consecutive = (s.port n).consecutive ∧ p.state = (s.port n).state ∧
      p.stop = (s.port n).stop := by
  cases h <;> exact ⟨rfl, rfl, rfl, rfl⟩

/-! ### MATCH and the mismatch below the threshold (R119, R120) -/

theorem judged_matched (s : State) (n : LineNo) (word : LineBits) (stamp : Stamp) :
    s.judged n word .matched stamp =
      if (s.port n).config.keepEcho then
        (s.withPort n { s.port n with comparator := .clear, consecutive := 0 }).offerItem
          { kind := .echo, line := n, bits := word, stamp, offeredAt := s.time.runClock }
      else s.withPort n { s.port n with comparator := .clear, consecutive := 0 } := rfl

/-- The port after a mismatch (R120). -/
def mismatchedPort (p : Port) : Port :=
  { p with
    comparator := .clear
    consecutive := p.consecutive + 1
    counters := { p.counters with echoMismatches := p.counters.echoMismatches + 1 } }

/-- The notice of a mismatch (R120). -/
def mismatchNotice (n : LineNo) (p : Port) (word : LineBits) (judgement : Judgement) (stamp : Stamp) : Notice :=
  { body := .echoMismatch judgement (p.consecutive + 1), line := some n.castSucc, tag := lineTag word, stamp }

theorem judged_mismatch (s : State) (n : LineNo) (word : LineBits) (stamp : Stamp) (hjudgement : judgement ≠ .matched) :
    s.judged n word judgement stamp =
      if (s.port n).config.echoThreshold ≤ (s.port n).consecutive + 1 then
        ((s.withPort n (mismatchedPort (s.port n))).queueNotice
          (mismatchNotice n (s.port n) word judgement stamp)).enterFault n judgement (lineTag word) stamp
      else (s.withPort n (mismatchedPort (s.port n))).queueNotice
        (mismatchNotice n (s.port n) word judgement stamp) := by
  cases judgement with
  | matched => exact absurd rfl hjudgement
  | different => rfl
  | error kind => rfl
  | missing => rfl

end Echo

/-- Settles O16: the comparator's three ways with a word, and every judgement MATCH. -/
theorem echoOutcome : Obligations.EchoOutcome := by
  refine ⟨fun s n kind bits hrunning hrole hend => ⟨fun hidle => ?foreign, fun word missing sent ends hwaits hsending =>
    ?held⟩, fun s n command word stamp p hrunning hjudges => ?matched⟩
  case foreign =>
    rw [exec_endOfWord_echo hrunning hrole hend, echoOutcome_foreign _ (by rw [port_withPort]; exact hidle),
      countLine_withPort]
    rfl
  case held =>
    rw [exec_endOfWord_echo hrunning hrole hend,
      echoOutcome_held _ (by rw [port_withPort]; exact hwaits) (by rw [port_withPort]; exact hsending),
      withPort_withPort, port_withPort]
    rfl
  case matched =>
    obtain ⟨hconfig, -, -, -⟩ := judges_port hjudges
    rw [exec_judges hrunning hjudges, judged_matched, port_withPort, withPort_withPort, ← hconfig]
    rfl

/-- Settles O17: a mismatch below the threshold, by whichever command, and the missing time not before it is reached. -/
theorem echoMismatch : Obligations.EchoMismatch := by
  refine ⟨fun s n command word judgement stamp p hrunning hjudges hmismatch hbelow => ?_, fun s n hrunning hearly => ?_⟩
  · obtain ⟨hconfig, hcount, -, -⟩ := judges_port hjudges
    rw [← hconfig, ← hcount] at hbelow
    rw [exec_judges hrunning hjudges, judged_mismatch _ _ _ _ hmismatch, port_withPort, withPort_withPort, ← hcount,
      if_neg (not_le.2 hbelow)]
    rfl
  · have hnone : s.missingWord n = none := by
      rw [State.missingWord]
      split
      next word moment hwaits =>
        rw [if_neg fun hreached => ?_]
        exact absurd ((reached_iff s moment).1 hreached) (not_le.2 (hearly word moment hwaits))
      next => rfl
    rw [exec_missingTimeReached hrunning, hnone]

/-- R5: what a released port is, field by field, its pair apart. -/
theorem release_eq (p : Port) :
    p.release = { p with
      receiver := .dormant
      transmitter := .dormant
      comparator := .inactive
      pair := p.release.pair
      counters := { p.counters with
        cutWords := if p.receiver.midWord then p.counters.cutWords + 1 else p.counters.cutWords } } := by
  by_cases hmid : p.receiver.midWord = true <;> simp [Port.release, hmid]

/-- A pair on which no word is being sent shows what it showed (R14). -/
theorem release_pair {p : Port} (h : ∀ word ends, p.transmitter ≠ .sending word ends) : p.release.pair = p.pair := by
  cases htransmitter : p.transmitter with
  | sending word ends => exact absurd htransmitter (h word ends)
  | dormant => simp [Port.release, htransmitter]
  | free => simp [Port.release, htransmitter]
  | spacing word ends => simp [Port.release, htransmitter]

/-! ### The entry to FAULT (R121, R122) and the end of a stop (R133, R134) -/

/-- The host link once the stop of a line has ended: a STOP_LINE that held the executor is answered (R134). -/
def stoppedLink (s : State) (n : LineNo) (final : LineState) : HostLink :=
  match s.link.executing with
  | some e =>
    if e.hold = .stop n then
      { s.link.replied e.request .ok
          [lineStateByte final, BitVec.ofNat 8 (((s.port n).stop.map StopInProgress.discarded).getD 0)] with
        requests := s.link.requests }
    else s.link
  | none => s.link

/-- A reply that leaves the request queue as it is (R145, R148). -/
theorem answered_eq (s : State) (r : Request) (status : Status) (results : List Byte) :
    s.answered r status results =
      { s with link := { s.link.replied r status results with requests := s.link.requests } } :=
  calc s.answered r status results
      = { s with link := (s.answered r status results).link } := rfl
    _ = _ := by
      rw [answered_link]
      rfl

/-- The state with its host link replaced. -/
def linked (link : HostLink) (s : State) : State := { s with link }

theorem stopEnded_eq (s : State) (n : LineNo) (final : LineState) :
    s.stopEnded n final =
      linked (stoppedLink s n final) (s.withPort n { s.port n with state := final, stop := none }) := by
  rw [State.stopEnded, stoppedLink]
  cases s.link.executing with
  | none => rfl
  | some e =>
    by_cases hstop : e.hold = .stop n
    · simp only [if_pos hstop, answered_eq]
      rfl
    · simp only [if_neg hstop]
      rfl

theorem stoppedLink_congr {s t : State} {n : LineNo} (final : LineState) (hlink : t.link = s.link)
    (hstop : (t.port n).stop = (s.port n).stop) : stoppedLink t n final = stoppedLink s n final := by
  simp only [stoppedLink, hlink, hstop]

/-- No STOP_LINE of the line holds the executor, so none is answered. -/
theorem stoppedLink_free {s : State} {n : LineNo} (final : LineState)
    (h : ∀ r, s.link.executing ≠ some ⟨r, .stop n⟩) : stoppedLink s n final = s.link := by
  rw [stoppedLink]
  split
  next e he => rw [if_neg fun hhold => h e.request (by rw [he, ← hhold])]
  next => rfl

/-- The STOP_LINE that held the executor is answered with the final state and the words it discarded. -/
theorem stoppedLink_held {s : State} {n : LineNo} (final : LineState) {r : Request} {stop : StopInProgress}
    (he : s.link.executing = some ⟨r, .stop n⟩) (hstop : (s.port n).stop = some stop) :
    stoppedLink s n final =
      { s.link.replied r .ok [lineStateByte final, BitVec.ofNat 8 stop.discarded] with
        requests := s.link.requests } := by
  simp [stoppedLink, he, hstop]

/-- Apart from notices and their loss, nothing differs. -/
def Announced (s t : State) : Prop :=
  ∃ notices noticeLoss, t = { s with reports := { s.reports with notices, noticeLoss } }

theorem announced_queueNotice (s : State) (x : Notice) : Announced s (s.queueNotice x) := by
  rw [State.queueNotice]
  split <;> exact ⟨_, _, rfl⟩

theorem Announced.trans {s t u : State} (h : Announced s t) (k : Announced t u) : Announced s u := by
  obtain ⟨_, _, rfl⟩ := h
  obtain ⟨_, _, rfl⟩ := k
  exact ⟨_, _, rfl⟩

theorem queueNotice_stopSlots (s : State) (n : LineNo) (x : Notice) :
    (s.queueNotice x).stopSlots n = (s.stopSlots n).queueNotice x := by
  unfold State.queueNotice
  rw [stopSlots_reports]
  split <;> rfl

section Fault

variable {s : State} {n : LineNo} {word : LineBits} {judgement : Judgement} {stamp : Stamp} {p : Port}

/-- The port of a line that enters FAULT (R121). -/
def faultedPort (p : Port) : Port := { (mismatchedPort p).release with state := .fault, stop := none }

/-- The notice of the entry to FAULT (R121). -/
def faultNotice (n : LineNo) (p : Port) (word : LineBits) (judgement : Judgement) (stamp : Stamp) : Notice :=
  { body := .lineFault (p.state == .stopping) judgement (p.consecutive + 1), line := some n.castSucc
    tag := lineTag word, stamp }

/-- The state at the entry to FAULT, its host link apart (R120, R121). -/
def faulted (s : State) (n : LineNo) (p : Port) (word : LineBits) (judgement : Judgement) (stamp : Stamp) : State :=
  (((s.withPort n (faultedPort p)).stopSlots n).queueNotice (mismatchNotice n p word judgement stamp)).queueNotice
    (faultNotice n p word judgement stamp)

theorem enterFault_eq (s : State) (n : LineNo) (judgement : Judgement) (tag : Tag) (stamp : Stamp) :
    s.enterFault n judgement tag stamp = linked (stoppedLink s n .fault)
      (((s.withPort n { (s.port n).release with state := .fault, stop := none }).stopSlots n).queueNotice
        { body := .lineFault ((s.port n).state == .stopping) judgement (s.port n).consecutive
          line := some n.castSucc, tag, stamp }) := by
  rw [State.enterFault, stopEnded_eq, queueNotice_withPort, queueNotice_port, stopSlots_port, port_mapPort]
  have hport (t : State) (p : Port) : (t.stopSlots n).withPort n p = (t.withPort n p).stopSlots n := rfl
  rw [hport, State.mapPort, withPort_withPort]
  congr 1
  exact stoppedLink_congr _ (by simp) (by simp [Port.release])

/-- The mismatch that reaches the threshold (R120, R121). -/
theorem judged_fault (hjudgement : judgement ≠ .matched) (hthreshold : p.config.echoThreshold ≤ p.consecutive + 1)
    (hstop : p.stop = (s.port n).stop) :
    (s.withPort n p).judged n word judgement stamp =
      linked (stoppedLink s n .fault) (faulted s n p word judgement stamp) := by
  rw [judged_mismatch _ _ _ _ hjudgement, port_withPort, if_pos hthreshold, withPort_withPort, enterFault_eq,
    queueNotice_port, port_withPort, queueNotice_withPort, withPort_withPort, queueNotice_stopSlots,
    stoppedLink_congr (s := s) _ (by simp) (by simp [mismatchedPort, hstop])]
  rfl

theorem faulted_announced (s : State) (n : LineNo) (p : Port) (word : LineBits) (judgement : Judgement) (stamp : Stamp) :
    Announced ((s.withPort n (faultedPort p)).stopSlots n) (faulted s n p word judgement stamp) :=
  (announced_queueNotice _ _).trans (announced_queueNotice _ _)

theorem noticed_faulted (h : NoticesWithin s) :
    s.Noticed (faulted s n p word judgement stamp)
      [mismatchNotice n p word judgement stamp, faultNotice n p word judgement stamp] := by
  have hstopped : NoticesWithin ((s.withPort n (faultedPort p)).stopSlots n) := h
  have hfirst := noticed_queueNotice hstopped (mismatchNotice n p word judgement stamp)
  exact noticed_congr (noticed_trans hfirst (noticed_queueNotice (noticed_within hfirst) _)) rfl rfl

end Fault

/-- Settles O18: the entry to FAULT by whichever command, and the answer to a stop that held the executor. -/
theorem echoFault : Obligations.EchoFault := by
  intro s n command word judgement stamp p hrunning hjudges hmismatch hthreshold _
  obtain ⟨hconfig, hcount, hstate, hstop⟩ := judges_port hjudges
  rw [← hconfig, ← hcount] at hthreshold
  rw [← hcount, ← hstate]
  obtain ⟨notices, noticeLoss, hfaulted⟩ := faulted_announced s n p word judgement stamp
  refine ⟨_, (exec_judges hrunning hjudges).trans (congrArg _ (judged_fault hmismatch hthreshold hstop)), ?frame,
    fun m hm => ?others, ⟨(mismatchedPort p).release.pair, ?port⟩, ?plan, fun hnotices hloss => ?noticed,
    stoppedLink_free _, fun r stop hheld hold => stoppedLink_held _ hheld hold⟩
  case frame =>
    rw [hfaulted]
    rfl
  case others =>
    rw [hfaulted]
    exact port_withPort_ne s n m _ hm
  case port =>
    rw [hfaulted]
    refine (port_withPort s n _).trans ?_
    rw [faultedPort, release_eq]
    rfl
  case plan =>
    rw [hfaulted]
    rfl
  case noticed =>
    obtain ⟨hkept, hlost⟩ := noticed_faulted (n := n) (p := p) (word := word) (judgement := judgement) (stamp := stamp)
      ⟨hnotices, hloss⟩
    exact ⟨hkept, hlost⟩

/-! ### STOP_END (R133, R134) -/

theorem exec_stopEnd {s : State} (hrunning : s.held = false) (n : LineNo) :
    exec (.stopEnd n) s = .next (s.tryEndStop n) := by
  rw [show exec (.stopEnd n) s = execStopEnd n s from rfl, execStopEnd, happen_running _ hrunning]

/-- Settles O21: the end of a stop where its condition holds. -/
theorem stopEnd : Obligations.StopEnd := by
  intro s n r stop hrunning hstate hstop hheld
  refine ⟨fun hfree hdone => ?ends, fun hgoes => ?goes⟩
  case ends =>
    have hcan : (s.port n).stopCanEnd = true := by
      simpa [Port.stopCanEnd, hstate, hstop, hfree] using hdone
    rw [exec_stopEnd hrunning, State.tryEndStop, if_pos hcan, stopEnded_eq, State.mapPort, withPort_withPort, port_withPort,
      stoppedLink_held .ready (s := s.withPort n (s.port n).release) hheld (by rw [port_withPort]; exact hstop)]
    rw [release_eq, release_pair (by simp [hfree])]
    rfl
  case goes =>
    have hcannot : (s.port n).stopCanEnd = false := by
      rcases hgoes with hbusy | ⟨hdrain, hleft⟩
      · simp [Port.stopCanEnd, hbusy]
      · simp [Port.stopCanEnd, hstop, hdrain, hleft]
    rw [exec_stopEnd hrunning, State.tryEndStop, if_neg (by simp [hcannot])]

end Sys2Proof.Proofs
end

section
/-! PROOFS. The transmit selector (R103 to R106), SENDING and SPACING, and what the drivers do (R3, R5, R13, R14): O19
and O20. -/

namespace Sys2Proof.Proofs

-- One theorem after another: elaborating them all at once costs a thread and its stack for each.
set_option Elab.async false

open Sys2Proof.Machine Sys2Proof.Laws

/-! ### The slot that is served first (R104) -/

/-- One step of the search for the slot that is served first. -/
def betterSlot (best : Option Slot) (slot : Slot) : Option Slot :=
  match best with
  | some b => if slot.servedBefore b then some slot else some b
  | none => some slot

theorem firstPending_eq (line : LineNo) (plan : List Slot) :
    firstPending line plan =
      (plan.filter fun slot => slot.line == line && slot.pending.isSome).foldl betterSlot none := rfl

/-- A slot that is served before every other one of a list is the one the search ends with. -/
theorem foldl_betterSlot {slot : Slot} (l : List Slot) (best : Option Slot)
    (hbest : ∀ b, best = some b → b = slot ∨ slot.servedBefore b = true ∧ b.servedBefore slot = false)
    (hl : ∀ b ∈ l, b = slot ∨ slot.servedBefore b = true ∧ b.servedBefore slot = false)
    (hmem : best = some slot ∨ slot ∈ l) : l.foldl betterSlot best = some slot := by
  have hself : slot.servedBefore slot = false := by simp [Slot.servedBefore]
  induction l generalizing best with
  | nil => simpa using hmem
  | cons a rest ih =>
    obtain ⟨ha, hrest⟩ := List.forall_mem_cons.1 hl
    refine ih (betterSlot best a) ?_ hrest ?_
    · intro b hb
      cases best with
      | none =>
        cases hb
        exact ha
      | some c =>
        simp only [betterSlot] at hb
        split at hb
        · cases hb
          exact ha
        · cases hb
          exact hbest _ rfl
    · rcases hmem with rfl | hmem
      · rcases ha with rfl | ⟨-, hnot⟩
        · simp [betterSlot]
        · simp [betterSlot, hnot]
      · rcases List.mem_cons.1 hmem with rfl | hmem
        · cases best with
          | none => exact .inl rfl
          | some c =>
            rcases hbest c rfl with rfl | ⟨hbefore, -⟩
            · simp [betterSlot]
            · simp [betterSlot, hbefore]
        · exact .inr hmem

theorem servedBefore_iff {a b : Slot} {due d : Nat} (ha : a.pending = some due) (hb : b.pending = some d) :
    a.servedBefore b = true ↔ due < d ∨ due = d ∧ a.index < b.index := by
  simp [Slot.servedBefore, ha, hb]

section Selection

variable {s : State} {n : LineNo} {slot : Slot} {due : Nat}

/-- The pending slot with the earliest due time, and then the lowest index, is served first. -/
theorem firstPending_first (hslot : slot ∈ s.plan) (hline : slot.line = n) (hpending : slot.pending = some due)
    (hfirst : ∀ other ∈ s.plan, other.line = n → ∀ d, other.pending = some d →
      other = slot ∨ due < d ∨ due = d ∧ slot.index < other.index) : firstPending n s.plan = some slot := by
  rw [firstPending_eq]
  refine foldl_betterSlot _ none nofun (fun other hother => ?_) (.inr ?_)
  · obtain ⟨hmem, hon⟩ := List.mem_filter.1 hother
    simp only [Bool.and_eq_true, beq_iff_eq, Option.isSome_iff_exists] at hon
    obtain ⟨hotherLine, d, hd⟩ := hon
    refine (hfirst other hmem hotherLine d hd).imp_right fun hbefore => ⟨(servedBefore_iff hpending hd).2 hbefore, ?_⟩
    rw [← Bool.not_eq_true, servedBefore_iff hd hpending]
    rintro (hlt | ⟨heq, hindex⟩)
    · omega
    · rcases hbefore with hlt | ⟨-, hother⟩
      · omega
      · exact absurd hindex (lt_asymm hother)
  · simp [hslot, hline, hpending]

theorem firstPending_none (h : ∀ slot ∈ s.plan, slot.line = n → slot.pending = none) : firstPending n s.plan = none := by
  have hempty : s.plan.filter (fun slot => slot.line == n && slot.pending.isSome) = [] := by
    rw [List.filter_eq_nil_iff]
    intro slot hslot
    by_cases hline : slot.line = n
    · simp [h slot hslot hline]
    · simp [hline]
  rw [firstPending_eq, hempty]
  rfl

theorem mayStartWord_of (hfree : (s.port n).transmitter = .free)
    (hstate : (s.port n).state = .running ∨
      (s.port n).state = .stopping ∧ ∃ d, (s.port n).stop = some ⟨.drain, d⟩) : (s.port n).mayStartWord = true := by
  rcases hstate with hstate | ⟨hstate, d, hstop⟩
  · simp [Port.mayStartWord, hfree, hstate]
  · simp [Port.mayStartWord, hfree, hstate, hstop]

theorem exec_transmitSelection (hrunning : s.held = false) :
    exec (.transmitSelection n) s = .next (
      match s.selection n with
      | some candidate => s.choose n candidate
      | none => s) := by
  rw [show exec (.transmitSelection n) s = execTransmitSelection n s from rfl, execTransmitSelection,
    happen_running _ hrunning] <;> rfl

theorem selection_slot (hmay : (s.port n).mayStartWord = true) (hfirst : firstPending n s.plan = some slot)
    (hpolicy : (s.port n).config.policy = .planFirst ∨ (s.port n).sendQueue = []) :
    s.selection n = some (.slot slot) := by
  rw [State.selection, if_pos hmay, hfirst]
  rcases hpolicy with hpolicy | hempty
  · simp [hpolicy]
  · cases (s.port n).config.policy <;> simp [hempty]

theorem selection_queued {word : OneOff} {rest : List OneOff} (hmay : (s.port n).mayStartWord = true)
    (hqueue : (s.port n).sendQueue = word :: rest)
    (hpolicy : (s.port n).config.policy = .queueFirst ∨ ∀ slot ∈ s.plan, slot.line = n → slot.pending = none) :
    s.selection n = some (.queued word) := by
  rw [State.selection, if_pos hmay, hqueue]
  rcases hpolicy with hpolicy | hnone
  · simp [hpolicy]
  · rw [firstPending_none hnone]
    cases (s.port n).config.policy <;> rfl

theorem selection_none (hempty : (s.port n).sendQueue = [])
    (hnone : ∀ slot ∈ s.plan, slot.line = n → slot.pending = none) : s.selection n = none := by
  rw [State.selection, hempty, firstPending_none hnone]
  split
  next => cases (s.port n).config.policy <;> rfl
  next => rfl

/-- A slot with a remaining of 1 reaches its limit where it is selected (R105). -/
theorem limitReached_eq (slot : Slot) (h : slot.remaining ≠ some 0) :
    ((slot.remaining.map fun k => k - 1) == some 0) = decide (slot.remaining = some 1) := by
  cases hremaining : slot.remaining with
  | none => rfl
  | some k =>
    rw [hremaining] at h
    have hk : k ≠ 0 := fun hzero => h (by rw [hzero])
    rw [Bool.eq_iff_iff]
    simp
    omega

end Selection

/-- Settles O19: the selection by the policy, and what the chosen word does. -/
theorem transmitSelection : Obligations.TransmitSelection := by
  intro s n hrunning hfree hstate
  have hmay := mayStartWord_of hfree hstate
  refine ⟨fun slot due hslot hline hpending hleft hfirst hpolicy => ?slot, fun word rest hqueue hpolicy => ?queued,
    fun hempty hnone => ?none⟩
  case slot =>
    rw [exec_transmitSelection hrunning, selection_slot hmay (firstPending_first hslot hline hpending hfirst) hpolicy]
    simp only [State.choose, Slot.selected, Slot.limitReached, limitReached_eq slot hleft, State.queueNoticeIf, hline]
    congr 1
    by_cases hlast : slot.remaining = some 1 <;> by_cases hnotify : slot.settings.notifyDone = true <;>
      simp [hlast, hnotify, State.startSending, State.mapPort, State.now, lineQueue]
  case queued =>
    rw [exec_transmitSelection hrunning, selection_queued hmay hqueue hpolicy]
    simp only [State.choose, State.startSending, State.mapPort, port_withPort, withPort_withPort, hqueue]
    rfl
  case none => rw [exec_transmitSelection hrunning, selection_none hempty hnone]

/-! ### The drivers (R3, R5, R13, R14) -/

section Drive

variable {s : State} {n : LineNo} {word : LineBits} {ends start : Nat}

/-- Within bit `k` of the word the half-bit times are `2 k` and `2 k + 1`, as the half of the bit time that has passed. -/
theorem halfBitTimes_within {bit now k start : Nat} (hbit : 0 < bit) (hfrom : start + k * bit ≤ now)
    (hto : now < start + (k + 1) * bit) :
    2 * (now + 40 * bit - (start + 40 * bit)) / bit =
      2 * k + if 2 * (now - (start + k * bit)) < bit then 0 else 1 := by
  obtain ⟨left, rfl⟩ := Nat.exists_eq_add_of_le hfrom
  have hsplit : 2 * (start + k * bit + left + 40 * bit - (start + 40 * bit)) = 2 * left + 2 * k * bit := by
    have : start + k * bit + left + 40 * bit - (start + 40 * bit) = k * bit + left := by omega
    rw [this]
    ring
  have hleft : left < bit := by
    have : (k + 1) * bit = k * bit + bit := by ring
    omega
  rw [hsplit, Nat.add_mul_div_right _ _ hbit, Nat.add_sub_cancel_left, Nat.add_comm]
  congr 1
  split
  next h => exact Nat.div_eq_of_lt h
  next h => exact Nat.div_eq_of_lt_le (by omega) (by omega)

theorem bitTime_pos (rate : Rate) : 0 < bitTime rate := by cases rate <;> decide

/-- In SENDING the driver sends the bits of the word, each in its two halves (R3). -/
theorem drive_bit (hrunning : s.held = false) (hsending : (s.port n).transmitter = .sending word ends)
    (hends : ends = start + 40 * bitTime (s.port n).config.rate) {k : Nat} (hk : k < 40)
    (hfrom : start + k * bitTime (s.port n).config.rate ≤ s.time.runClock)
    (hto : s.time.runClock < start + (k + 1) * bitTime (s.port n).config.rate) :
    s.drive n = .sends (
      if 2 * (s.time.runClock - (start + k * bitTime (s.port n).config.rate)) < bitTime (s.port n).config.rate then
        if word.getMsbD k then .positive else .negative
      else if word.getMsbD k then .negative else .positive) := by
  obtain ⟨hfirst, hsecond⟩ := wordSenses_getElem? word k hk
  rw [drive_sending n word ends hrunning hsending, State.halfBitTimes, hends,
    halfBitTimes_within (bitTime_pos _) hfrom hto]
  split
  next h =>
    rw [Nat.add_zero, hfirst]
    cases word.getMsbD k <;> rfl
  next h =>
    rw [hsecond]
    cases word.getMsbD k <;> rfl

/-- Once the 80 half-bits are sent the driver holds the pair null (R13). -/
theorem drive_sent (hrunning : s.held = false) (hsending : (s.port n).transmitter = .sending word ends)
    (hended : ends ≤ s.time.runClock) : s.drive n = .null := by
  have hpast : 80 ≤ s.halfBitTimes n ends := by
    rw [State.halfBitTimes, Nat.le_div_iff_mul_le (bitTime_pos _)]
    omega
  rw [drive_sending n word ends hrunning hsending, List.getElem?_eq_none (by simpa using hpast)]
  rfl

/-- While RSTn is high the driver is released exactly while the transmitter is DORMANT. -/
theorem drive_eq_released_iff (hrunning : s.held = false) :
    s.drive n = .released ↔ (s.port n).transmitter = .dormant := by
  cases htransmitter : (s.port n).transmitter with
  | dormant => simp [drive_dormant n htransmitter]
  | free => simp [drive_free n hrunning htransmitter]
  | spacing word ends => simp [drive_spacing n word ends hrunning htransmitter]
  | sending word ends =>
    rw [drive_sending n word ends hrunning htransmitter]
    cases (wordSenses word)[s.halfBitTimes n ends]? <;> simp

/-- Of a sound port the driver is released exactly where it is not active (R5). -/
theorem drive_ne_released_iff (hrunning : s.held = false) (hsound : (s.port n).Sound) :
    s.drive n ≠ .released ↔
      ((s.port n).config.role = .transmit ∨ (s.port n).config.role = .echo) ∧
        ((s.port n).state = .running ∨ (s.port n).state = .stopping) := by
  rw [ne_eq, drive_eq_released_iff hrunning, hsound.transmitter, Bool.not_eq_false]
  simp [Port.driverActive]

end Drive

/-! ### The ends of SENDING and SPACING (R13, R116, R118) -/

section Ends

variable {s : State} {n : LineNo} {word : LineBits} {ends : Nat}

theorem endOfSending_early (hrunning : s.held = false) (hsending : (s.port n).transmitter = .sending word ends)
    (hearly : s.time.runClock < ends) : exec (.endOfSending n) s = .next s := by
  have hnot : s.sendingEnded n = false := by
    rw [State.sendingEnded, hsending]
    exact decide_eq_false (not_le.2 hearly)
  rw [exec_endOfSending hrunning, if_neg (by simp [hnot])]

theorem endOfSending_ended (hrunning : s.held = false) (hsending : (s.port n).transmitter = .sending word ends)
    (hended : ends ≤ s.time.runClock) (hfree : ∀ sent o, (s.port n).comparator ≠ .held sent o) :
    exec (.endOfSending n) s = .next (s.withPort n { s.port n with
      transmitter := .spacing word (ends + 8 * bitTime (s.port n).config.rate)
      counters := { (s.port n).counters with wordsSent := (s.port n).counters.wordsSent + 1 }
      comparator :=
        match (s.port n).comparator with
        | .waiting sent _ => .waiting sent (some (ends + 4 * bitTime (s.port n).config.rate))
        | other => other }) := by
  have hyes : s.sendingEnded n = true := by
    rw [State.sendingEnded, hsending]
    exact decide_eq_true hended
  rw [exec_endOfSending hrunning, if_pos hyes, State.mapPort, Port.endSending, hsending]
  cases hcomparator : (s.port n).comparator with
  | held sent o => exact absurd hcomparator (hfree sent o)
  | inactive => rfl
  | clear => rfl
  | waiting sent missing => rfl

/-- A held read-back that agrees is judged a MATCH at the end of SENDING (R116, R119). -/
theorem endOfSending_matched (hrunning : s.held = false) (hsending : (s.port n).transmitter = .sending word ends)
    (hended : ends ≤ s.time.runClock) {sent : LineBits} {o : ReceiverOutcome}
    (hheld : (s.port n).comparator = .held sent o) (hkind : o.kind = .word) (hbits : o.bits = sent) :
    exec (.endOfSending n) s = .next (
      let judged := s.withPort n { s.port n with
        transmitter := .spacing word (ends + 8 * bitTime (s.port n).config.rate)
        counters := { (s.port n).counters with wordsSent := (s.port n).counters.wordsSent + 1 }
        comparator := .clear
        consecutive := 0 }
      if (s.port n).config.keepEcho then
        judged.offerItem { kind := .echo, line := n, bits := sent, stamp := o.stamp, offeredAt := s.time.runClock }
      else judged) := by
  have hjudges := State.Judges.held sent word o ends .matched hsending hended hheld (.inl ⟨hkind, hbits, rfl⟩)
  rw [exec_judges hrunning hjudges, judged_matched, port_withPort, withPort_withPort]
  rfl

theorem endOfSpacing_eq (hrunning : s.held = false) (hspacing : (s.port n).transmitter = .spacing word ends) :
    exec (.endOfSpacing n) s = .next (
      if ends ≤ s.time.runClock then s.withPort n { s.port n with transmitter := .free } else s) := by
  have hended : s.spacingEnded n = decide (ends ≤ s.time.runClock) := by
    rw [State.spacingEnded, hspacing]
    rfl
  rw [show exec (.endOfSpacing n) s = execEndOfSpacing n s from rfl, execEndOfSpacing, happen_running _ hrunning]
  simp only [hended, decide_eq_true_eq]
  rfl

end Ends

/-- Settles O20: the bit times, the drivers, and the ends of SENDING and SPACING. -/
theorem sendingAndSpacing : Obligations.SendingAndSpacing := by
  refine ⟨fun rate => by cases rate <;> rfl, fun s n hrunning => ⟨fun word ends start hsending hends =>
      ⟨fun k hk hfrom hto => drive_bit hrunning hsending hends hk hfrom hto, drive_sent hrunning hsending⟩, ?null,
      drive_ne_released_iff hrunning⟩, fun s n hheld => drive_held n hheld, fun s n hrunning =>
    ⟨fun word ends hsending => ⟨endOfSending_early hrunning hsending, fun hended =>
      ⟨endOfSending_ended hrunning hsending hended, fun sent o => endOfSending_matched hrunning hsending hended⟩⟩,
      fun word ends => endOfSpacing_eq hrunning⟩⟩
  rintro (hfree | ⟨word, ends, hspacing⟩)
  · exact drive_free n hrunning hfree
  · exact drive_spacing n word ends hrunning hspacing

end Sys2Proof.Proofs
end

section
/-! PROOFS. The Transmit Plan and SEND (R93 to R102, R108 to R112): O22, O23, O24 and O26. -/

namespace Sys2Proof.Proofs

-- One theorem after another: elaborating them all at once costs a thread and its stack for each.
set_option Elab.async false

open Sys2Proof.Machine Sys2Proof.Laws

/-! ### SLOT_DUE and the grid (R96, R98, R99) -/

section SlotDue

variable {s : State} {i : SlotNo} {slot : Slot} {due : Nat}

theorem exec_slotDue (hrunning : s.held = false) (hslot : s.slotAt i = some slot) (hdue : slot.nextDue = some due) :
    exec (.slotDue i) s = .next (if s.reached due then s.fallDue slot due else s) := by
  rw [show exec (.slotDue i) s = execSlotDue i s from rfl, execSlotDue, happen_running _ hrunning]
  simp only [hslot, hdue]

theorem fallDue_skip (hmode : slot.settings.mode = .onUpdate) (hupdated : slot.updated = false) :
    s.fallDue slot due =
      s.withSlot { slot with nextDue := some (due + slot.settings.period * 100), skips := slot.skips + 1 } := by
  simp [State.fallDue, Slot.fallDue, Slot.misses?, hmode, hupdated]

theorem fallDue_pending (hserved : slot.settings.mode = .always ∨ slot.updated = true) (hfree : slot.pending = none) :
    s.fallDue slot due =
      s.withSlot { slot with nextDue := some (due + slot.settings.period * 100), pending := some due } := by
  have hnot : ¬ (slot.settings.mode = .onUpdate ∧ slot.updated = false) := by
    rcases hserved with h | h <;> simp [h]
  simp [State.fallDue, Slot.fallDue, Slot.misses?, hnot, hfree]

/-- A slot that falls due while pending is a miss, noticed with the age of what was pending. -/
theorem fallDue_miss (hserved : slot.settings.mode = .always ∨ slot.updated = true) {since : Nat}
    (hpending : slot.pending = some since) :
    s.fallDue slot due =
      let missed :=
        s.withSlot { slot with nextDue := some (due + slot.settings.period * 100), misses := slot.misses + 1 }
      if slot.settings.notifyMiss then
        missed.queueNotice
          { body := .slotMiss slot.index (min 65535 ((s.time.runClock - since) / 100))
            line := some slot.line.castSucc, tag := slot.settings.tag, stamp := s.now }
      else missed := by
  have hnot : ¬ (slot.settings.mode = .onUpdate ∧ slot.updated = false) := by
    rcases hserved with h | h <;> simp [h]
  have hmiss : slot.misses? = true := by
    rcases hserved with h | h <;> simp [Slot.misses?, h, hpending]
  simp only [State.fallDue, Slot.fallDue, if_neg hnot, hpending, hmiss, Bool.true_and, Slot.age, Option.getD_some,
    Option.isSome_some, if_true]
  rfl

/-- The grid point is the first at or after the moment (R96). -/
theorem gridPoint_first (t0 now : Nat) (t : SlotSettings) (hperiod : 0 < t.period) :
    ∃ k, gridPoint t0 t now = t0 + (t.phase + k * t.period) * 100 ∧ now ≤ gridPoint t0 t now ∧
      (k = 0 ∨ t0 + (t.phase + (k - 1) * t.period) * 100 < now) := by
  have hstep : 0 < t.period * 100 := by omega
  generalize hk : (now - (t0 + t.phase * 100) + (t.period * 100 - 1)) / (t.period * 100) = k
  have hlow : k * (t.period * 100) ≤ now - (t0 + t.phase * 100) + (t.period * 100 - 1) := by
    rw [← hk]
    exact Nat.div_mul_le_self _ _
  have hhigh : now - (t0 + t.phase * 100) + (t.period * 100 - 1) < k * (t.period * 100) + t.period * 100 := by
    have h := Nat.lt_div_mul_add (a := now - (t0 + t.phase * 100) + (t.period * 100 - 1)) hstep
    rwa [hk] at h
  have hpoint : gridPoint t0 t now = t0 + t.phase * 100 + k * (t.period * 100) := by rw [← hk]; rfl
  refine ⟨k, ?_, ?_, ?_⟩
  · rw [hpoint]
    ring
  · omega
  · rcases Nat.eq_zero_or_pos k with hzero | hpos
    · exact .inl hzero
    · refine .inr ?_
      obtain ⟨j, rfl⟩ := Nat.exists_eq_add_of_lt hpos
      have hj : (0 + j + 1) * (t.period * 100) = j * t.period * 100 + t.period * 100 := by ring
      have hbefore : t0 + (t.phase + (0 + j + 1 - 1) * t.period) * 100 = t0 + t.phase * 100 + j * t.period * 100 := by
        simp only [Nat.zero_add, Nat.add_sub_cancel]
        ring
      omega

end SlotDue

/-- Settles O22: a skip, a pending slot or a miss, and the grid point. -/
theorem slotDueAndGrid : Obligations.SlotDueAndGrid := by
  refine ⟨fun s i slot due hrunning hslot hdue => ?_, gridPoint_first⟩
  have hexec := exec_slotDue hrunning hslot hdue
  refine ⟨fun hearly => ?early, fun hreached => ?_⟩
  case early =>
    rw [hexec, if_neg]
    rw [reached_iff]
    omega
  rw [if_pos ((reached_iff s due).2 hreached)] at hexec
  refine ⟨fun hmode hupdated => ?skip, fun hserved => ⟨fun hfree => ?pending, fun since hpending => ?miss⟩⟩
  case skip => rw [hexec, fallDue_skip hmode hupdated]
  case pending => rw [hexec, fallDue_pending hserved hfree]
  case miss =>
    rw [hexec, fallDue_miss hserved hpending]
    rfl

/-! ### The fields of ADD_SLOT and CHANGE_SLOT (section 11.2, R94, R173) -/

/-- Slot settings are read from the bytes that carry them, behind the fields before them. -/
theorem slotSettingsOf_after {fields front bytes : List Byte} {k : Nat} (hfields : fields = front ++ bytes)
    (hk : front.length = k) (hbytes : bytes.length = 15) (t : SlotSettings) :
    slotSettingsOf fields k = some t ↔ t.Encoded bytes := by
  subst hfields hk
  simpa using slotSettingsOf_iff t bytes front [] hbytes

theorem slotSettingsOf_none {fields front bytes : List Byte} {k : Nat} (hfields : fields = front ++ bytes)
    (hk : front.length = k) (hbytes : bytes.length = 15) (h : ∀ t, ¬ SlotSettings.Encoded t bytes) :
    slotSettingsOf fields k = none := by
  rw [Option.eq_none_iff_forall_ne_some]
  exact fun t ht => h t ((slotSettingsOf_after hfields hk hbytes t).1 ht)

theorem lineOf_eq_none {b : Byte} (h : 11 < b.toNat) : lineOf b = none := dif_neg (by omega)

theorem lineOf_ofNat (n : LineNo) : lineOf (BitVec.ofNat 8 n.val) = some n := by
  revert n
  decide

/-- A slot joins the grid where it is enabled and its line is RUNNING with role TRANSMIT or ECHO (R96). -/
theorem joinGrid_eq (s : State) (n : LineNo) (t : SlotSettings) :
    s.joinGrid n t =
      if t.enabled = true ∧ (s.port n).state = .running ∧
          ((s.port n).config.role = .transmit ∨ (s.port n).config.role = .echo) then
        (s.port n).t0.map fun t0 => gridPoint t0 t s.time.runClock
      else none := by
  have hcan : s.canComeDue n t = true ↔ t.enabled = true ∧ (s.port n).state = .running ∧
      ((s.port n).config.role = .transmit ∨ (s.port n).config.role = .echo) := by
    simp only [State.canComeDue, Port.servesPlan, Bool.and_eq_true, Bool.or_eq_true, beq_iff_eq]
    tauto
  rw [State.joinGrid]
  simp only [hcan]

section AddSlot

variable {s : State} {r : Request} {rest : List Request} {number : Nat} {line : Byte} {bytes : List Byte}

theorem exec_addSlot (s : State) : exec .addSlot s = s.happen (State.carryOut .addSlot ruleAddSlot) := rfl

theorem exec_changeSlot (s : State) : exec .changeSlot s = s.happen (State.carryOut .changeSlot ruleChangeSlot) := rfl

theorem addSlot_length (hbytes : bytes.length = 15) :
    (0x50 :: (bigEndian 2 number ++ line :: bytes)).length = requestLength .addSlot := by
  simp only [List.length_cons, List.length_append, bigEndian_length, hbytes]
  rfl

theorem changeSlot_length (hbytes : bytes.length = 15) :
    (0x51 :: (bigEndian 2 number ++ bytes)).length = requestLength .changeSlot := by
  simp only [List.length_cons, List.length_append, bigEndian_length, hbytes]
  rfl

theorem byteAt_addLine : byteAt (bigEndian 2 number ++ line :: bytes) 2 = line := rfl

theorem addSettings (hbytes : bytes.length = 15) (t : SlotSettings) :
    slotSettingsOf (bigEndian 2 number ++ line :: bytes) 3 = some t ↔ t.Encoded bytes :=
  slotSettingsOf_after (front := bigEndian 2 number ++ [line]) (by simp) (by simp) hbytes t

theorem addSettings_none (hbytes : bytes.length = 15) (h : ∀ t, ¬ SlotSettings.Encoded t bytes) :
    slotSettingsOf (bigEndian 2 number ++ line :: bytes) 3 = none :=
  slotSettingsOf_none (front := bigEndian 2 number ++ [line]) (by simp) (by simp) hbytes h

theorem addSlot_range (h : s.Offers r rest) (hnumber : number < 65536) (hbytes : bytes.length = 15)
    (hp : r.payload = 0x50 :: (bigEndian 2 number ++ line :: bytes))
    (hout : 383 < number ∨ 11 < line.toNat ∨ ∀ t, ¬ SlotSettings.Encoded t bytes) :
    exec .addSlot s = .next { s with link := s.link.replied r .range [] } := by
  rw [exec_addSlot]
  refine row_refused h hp rfl (addSlot_length hbytes) rfl ?_
  rw [ruleAddSlot, numberAt_head hnumber, byteAt_addLine]
  rcases hout with hindex | hline | hsettings
  · rw [slotOf_eq_none hindex]
  · rw [lineOf_eq_none hline]
    cases slotOf number <;> rfl
  · rw [addSettings_none hbytes hsettings]
    cases slotOf number <;> cases lineOf line <;> rfl

/-- The slot that ADD_SLOT enters (R108). -/
def addedSlot (s : State) (i : SlotNo) (n : LineNo) (t : SlotSettings) : Slot :=
  { index := i, line := n, settings := t, remaining := t.limit, nextDue := s.joinGrid n t }

theorem insertSlot_length (slot : Slot) (plan : List Slot) : (insertSlot slot plan).length = plan.length + 1 := by
  induction plan with
  | nil => rfl
  | cons other rest ih =>
    rw [insertSlot]
    split
    · rfl
    · rw [List.length_cons, ih, List.length_cons]

variable {i : SlotNo} {n : LineNo} {t : SlotSettings}

theorem ruleAddSlot_eq (hbytes : bytes.length = 15) (ht : t.Encoded bytes) (s : State) :
    ruleAddSlot (bigEndian 2 i.val ++ BitVec.ofNat 8 n.val :: bytes) s =
      if (s.slotAt i).isSome then .refuse .exists
      else .ok { s with plan := insertSlot (addedSlot s i n t) s.plan } (bigEndian 2 (s.plan.length + 1)) := by
  rw [ruleAddSlot, slotOf_head, byteAt_addLine, lineOf_ofNat, (addSettings hbytes t).2 ht]
  simp only [insertSlot_length, addedSlot]

theorem addSlot_enters (h : s.Offers r rest) (hbytes : bytes.length = 15) (ht : t.Encoded bytes)
    (hp : r.payload = 0x50 :: (bigEndian 2 i.val ++ BitVec.ofNat 8 n.val :: bytes)) (hfree : s.slotAt i = none) :
    exec .addSlot s = .next { s with
      plan := insertSlot (addedSlot s i n t) s.plan
      link := s.link.replied r .ok (bigEndian 2 (s.plan.length + 1)) } := by
  have hrule := ruleAddSlot_eq (i := i) (n := n) hbytes ht (s.startExecuting r)
  rw [startExecuting_slotAt, hfree, if_neg (by simp)] at hrule
  rw [exec_addSlot]
  exact row_ok h hp rfl (addSlot_length hbytes) rfl hrule rfl

theorem addSlot_exists (h : s.Offers r rest) (hbytes : bytes.length = 15) (ht : t.Encoded bytes)
    (hp : r.payload = 0x50 :: (bigEndian 2 i.val ++ BitVec.ofNat 8 n.val :: bytes)) (htaken : s.slotAt i ≠ none) :
    exec .addSlot s = .next { s with link := s.link.replied r .exists [] } := by
  have hrule := ruleAddSlot_eq (i := i) (n := n) hbytes ht (s.startExecuting r)
  rw [startExecuting_slotAt, if_pos (Option.isSome_iff_ne_none.2 htaken)] at hrule
  rw [exec_addSlot]
  exact row_refused h hp rfl (addSlot_length hbytes) rfl hrule

theorem changeSlot_range (h : s.Offers r rest) (hnumber : number < 65536) (hbytes : bytes.length = 15)
    (hp : r.payload = 0x51 :: (bigEndian 2 number ++ bytes))
    (hout : 383 < number ∨ ∀ t, ¬ SlotSettings.Encoded t bytes) :
    exec .changeSlot s = .next { s with link := s.link.replied r .range [] } := by
  rw [exec_changeSlot]
  refine row_refused h hp rfl (changeSlot_length hbytes) rfl ?_
  rw [ruleChangeSlot, numberAt_head hnumber]
  rcases hout with hindex | hsettings
  · rw [slotOf_eq_none hindex]
  · rw [slotSettingsOf_none rfl (bigEndian_length 2 number) hbytes hsettings]
    cases slotOf number <;> rfl

theorem ruleChangeSlot_eq (hbytes : bytes.length = 15) (ht : t.Encoded bytes) (s : State) :
    ruleChangeSlot (bigEndian 2 i.val ++ bytes) s =
      match s.slotAt i with
      | some slot => .ok (s.withSlot (slot.change t (s.joinGrid slot.line t))) []
      | none => .refuse .absent := by
  rw [ruleChangeSlot, slotOf_head, (slotSettingsOf_after rfl (bigEndian_length 2 i.val) hbytes t).2 ht] <;>
    dsimp only <;> cases s.slotAt i <;> rfl

theorem changeSlot_absent (h : s.Offers r rest) (hbytes : bytes.length = 15) (ht : t.Encoded bytes)
    (hp : r.payload = 0x51 :: (bigEndian 2 i.val ++ bytes)) (habsent : s.slotAt i = none) :
    exec .changeSlot s = .next { s with link := s.link.replied r .absent [] } := by
  have hrule := ruleChangeSlot_eq (i := i) hbytes ht (s.startExecuting r)
  rw [startExecuting_slotAt, habsent] at hrule
  rw [exec_changeSlot]
  exact row_refused h hp rfl (changeSlot_length hbytes) rfl hrule

theorem changeSlot_changes (h : s.Offers r rest) (hbytes : bytes.length = 15) (ht : t.Encoded bytes)
    (hp : r.payload = 0x51 :: (bigEndian 2 i.val ++ bytes)) {slot : Slot} (hslot : s.slotAt i = some slot) :
    exec .changeSlot s = .next { s.withSlot (slot.change t (s.joinGrid slot.line t)) with
      link := s.link.replied r .ok [] } := by
  have hrule := ruleChangeSlot_eq (i := i) hbytes ht (s.startExecuting r)
  rw [startExecuting_slotAt, hslot] at hrule
  have hnext := row_ok h hp rfl (changeSlot_length hbytes) rfl hrule rfl
  rw [exec_changeSlot]
  exact hnext

/-- What CHANGE_SLOT makes of a slot, field by field (R109, R110). -/
theorem change_eq (slot : Slot) (t : SlotSettings) (joined : Option Nat) (hjoined : t.enabled = false → joined = none) :
    slot.change t joined = { slot with
      settings := t
      remaining :=
        if t.limit ≠ slot.settings.limit then t.limit
        else if slot.settings.enabled = false ∧ t.enabled = true ∧ slot.remaining = some 0 then t.limit
        else slot.remaining
      pending := if t.enabled = true then slot.pending else none
      nextDue :=
        if t.enabled = true ∧ slot.settings.enabled = true ∧ t.period = slot.settings.period ∧
            t.phase = slot.settings.phase then slot.nextDue
        else joined } := by
  rw [Slot.change, Slot.remainingAfter]
  congr 1
  cases henabled : t.enabled with
  | false => simp [hjoined henabled]
  | true =>
    by_cases hsame : slot.settings.enabled = true ∧ t.period = slot.settings.period ∧ t.phase = slot.settings.phase
    · simp [hsame]
    · have hnew := hsame
      rw [not_and_or, not_and_or, Bool.not_eq_true] at hnew
      rw [if_neg (by simp), if_pos hnew, if_neg fun hall => hsame hall.2]

end AddSlot

/-- Settles O23: the rows' refusals and effects, the grid where a slot can come due. -/
theorem addAndChangeSlot : Obligations.AddAndChangeSlot := by
  refine ⟨slotModeByte_eq, fun b => rfl, fun s r rest number line bytes h hnumber hbytes => ⟨fun hp =>
    ⟨addSlot_range h hnumber hbytes hp, ?add⟩, fun hp => ⟨changeSlot_range h hnumber hbytes hp, ?change⟩⟩⟩
  case add =>
    rintro i n t rfl rfl ht
    refine ⟨fun hfree => ?_, fun htaken => addSlot_exists h hbytes ht hp htaken⟩
    rw [addSlot_enters h hbytes ht hp hfree, addedSlot, joinGrid_eq]
  case change =>
    rintro i t rfl ht
    refine ⟨fun slot hslot => ?_, fun habsent => changeSlot_absent h hbytes ht hp habsent⟩
    rw [changeSlot_changes h hbytes ht hp hslot, change_eq, joinGrid_eq]
    intro hdisabled
    rw [joinGrid_eq, if_neg (by simp [hdisabled])]

/-! ### SET_VALUE and REMOVE_SLOT (R111, R112) -/

section SetValue

variable {s : State} {r : Request} {rest : List Request} {number : Nat} {value : Value} {i : SlotNo}

theorem exec_setValue (s : State) : exec .setValue s = s.happen (State.carryOut .setValue ruleSetValue) := rfl

theorem exec_removeSlot (s : State) : exec .removeSlot s = s.happen (State.carryOut .removeSlot ruleRemoveSlot) := rfl

theorem setValue_length (number value : Nat) :
    (0x52 :: (bigEndian 2 number ++ bigEndian 3 value)).length = requestLength .setValue := rfl

theorem removeSlot_length (number : Nat) : (0x53 :: bigEndian 2 number).length = requestLength .removeSlot := rfl

theorem numberAt_value3 (number : Nat) (value : Value) :
    numberAt (bigEndian 2 number ++ bigEndian 3 value.toNat) 2 3 = value.toNat :=
  numberAt_of_eq _ (bigEndian 2 number) [] 2 3 value.toNat (by simp) (by simp) value.isLt

theorem setValue_range (h : s.Offers r rest) (hnumber : number < 65536)
    (hp : r.payload = 0x52 :: (bigEndian 2 number ++ bigEndian 3 value.toNat)) (hout : 383 < number) :
    exec .setValue s = .next { s with link := s.link.replied r .range [] } := by
  rw [exec_setValue]
  refine row_refused h hp rfl (setValue_length _ _) rfl ?_
  rw [ruleSetValue, numberAt_head hnumber, slotOf_eq_none hout]

theorem ruleSetValue_eq (s : State) :
    ruleSetValue (bigEndian 2 i.val ++ bigEndian 3 value.toNat) s =
      match s.slotAt i with
      | some slot => .ok (s.withSlot { slot with settings := { slot.settings with value }, updated := true }) []
      | none => .refuse .absent := by
  rw [ruleSetValue, slotOf_head]
  cases hslot : s.slotAt i with
  | none => simp only [hslot]
  | some slot => simp only [hslot, numberAt_value3, BitVec.ofNat_toNat, BitVec.setWidth_eq]

theorem setValue_absent (h : s.Offers r rest)
    (hp : r.payload = 0x52 :: (bigEndian 2 i.val ++ bigEndian 3 value.toNat)) (habsent : s.slotAt i = none) :
    exec .setValue s = .next { s with link := s.link.replied r .absent [] } := by
  have hrule := ruleSetValue_eq (i := i) (value := value) (s.startExecuting r)
  rw [startExecuting_slotAt, habsent] at hrule
  rw [exec_setValue]
  exact row_refused h hp rfl (setValue_length _ _) rfl hrule

theorem setValue_sets (h : s.Offers r rest)
    (hp : r.payload = 0x52 :: (bigEndian 2 i.val ++ bigEndian 3 value.toNat)) {slot : Slot}
    (hslot : s.slotAt i = some slot) :
    exec .setValue s = .next { s.withSlot { slot with settings := { slot.settings with value }, updated := true } with
      link := s.link.replied r .ok [] } := by
  have hrule := ruleSetValue_eq (i := i) (value := value) (s.startExecuting r)
  rw [startExecuting_slotAt, hslot] at hrule
  have hnext := row_ok h hp rfl (setValue_length _ _) rfl hrule rfl
  rw [exec_setValue]
  exact hnext

theorem removeSlot_range (h : s.Offers r rest) (hnumber : number < 65536) (hp : r.payload = 0x53 :: bigEndian 2 number)
    (hout : 383 < number) : exec .removeSlot s = .next { s with link := s.link.replied r .range [] } := by
  have hread : numberAt (bigEndian 2 number) 0 2 = number := numberAt_of_eq _ [] [] 0 2 number (by simp) rfl hnumber
  rw [exec_removeSlot]
  refine row_refused h hp rfl (removeSlot_length _) rfl ?_
  rw [ruleRemoveSlot, hread, slotOf_eq_none hout]

/-- The plan without the slot of an index. -/
def planWithout (s : State) (i : SlotNo) : List Slot := s.plan.filter fun slot => slot.index.val != i.val

theorem ruleRemoveSlot_eq (s : State) :
    ruleRemoveSlot (bigEndian 2 i.val) s =
      if (s.slotAt i).isSome then .ok { s with plan := planWithout s i } (bigEndian 2 (planWithout s i).length)
      else .refuse .absent := by
  have hread : slotOf (numberAt (bigEndian 2 i.val) 0 2) = some i := by
    simpa using slotOf_head i []
  have hsame : ∀ slot : Slot, (slot.index != i) = (slot.index.val != i.val) := fun slot => by
    rw [Bool.eq_iff_iff, bne_iff_ne, bne_iff_ne, ne_eq, ne_eq, Fin.ext_iff]
  rw [ruleRemoveSlot, hread]
  simp only [hsame]
  rfl

theorem removeSlot_absent (h : s.Offers r rest) (hp : r.payload = 0x53 :: bigEndian 2 i.val)
    (habsent : s.slotAt i = none) :
    exec .removeSlot s = .next { s with link := s.link.replied r .absent [] } := by
  have hrule := ruleRemoveSlot_eq (i := i) (s.startExecuting r)
  rw [startExecuting_slotAt, habsent, if_neg (by simp)] at hrule
  rw [exec_removeSlot]
  exact row_refused h hp rfl (removeSlot_length _) rfl hrule

theorem removeSlot_removes (h : s.Offers r rest) (hp : r.payload = 0x53 :: bigEndian 2 i.val)
    (hslot : (s.slotAt i).isSome = true) :
    exec .removeSlot s = .next { s with
      plan := planWithout s i, link := s.link.replied r .ok (bigEndian 2 (planWithout s i).length) } := by
  have hrule := ruleRemoveSlot_eq (i := i) (s.startExecuting r)
  rw [startExecuting_slotAt, if_pos hslot] at hrule
  have hnext := row_ok h hp rfl (removeSlot_length _) rfl hrule rfl
  rw [exec_removeSlot]
  exact hnext

end SetValue

/-- Settles O24: the rows' refusals and effects. -/
theorem setValueAndRemoveSlot : Obligations.SetValueAndRemoveSlot := by
  intro s r rest i value h hi
  refine ⟨fun hp => ⟨setValue_range h hi hp, fun habsent hin => ?_, fun slot hslot => ?_⟩,
    fun hp => ⟨removeSlot_range h hi hp, fun habsent hin => ?_, fun slot hslot hindex => ?_⟩⟩
  · exact setValue_absent (i := ⟨i, by omega⟩) h hp (slotAt_eq_none habsent)
  · obtain rfl : slot.index.val = i := by simpa using List.find?_some hslot
    exact setValue_sets h hp ((slotAt_eq_find s slot.index).trans hslot)
  · exact removeSlot_absent (i := ⟨i, by omega⟩) h hp (slotAt_eq_none habsent)
  · subst hindex
    refine removeSlot_removes h hp ?_
    rw [slotAt_eq_find, List.find?_isSome]
    exact ⟨slot, hslot, by simp⟩

/-! ### SEND (R102) -/

section Send

variable {s : State} {r : Request} {rest : List Request}

theorem exec_send (s : State) : exec .send s = s.happen (State.carryOut .send ruleSend) := rfl

/-- A word of SEND in its five bytes (section 11.2). -/
def oneOffBytes (w : OneOff) : List Byte := bigEndian 2 w.tag.toNat ++ bigEndian 3 w.value.toNat

theorem oneOffBytes_length (w : OneOff) : (oneOffBytes w).length = 5 := by simp [oneOffBytes]

/-- Words are read back from their bytes, whatever fills the places beyond them. -/
theorem sendWordsOf_bytes (words : List OneOff) (fill : List Byte) :
    sendWordsOf ((words.map oneOffBytes).flatten ++ fill) words.length = some words := by
  induction words with
  | nil => rfl
  | cons w words ih =>
    have htag : numberAt (oneOffBytes w ++ ((words.map oneOffBytes).flatten ++ fill)) 0 2 = w.tag.toNat :=
      numberAt_of_eq _ [] (bigEndian 3 w.value.toNat ++ ((words.map oneOffBytes).flatten ++ fill)) 0 2 _
        (by simp [oneOffBytes]) rfl (by have := w.tag.isLt; omega)
    have hvalue : numberAt (oneOffBytes w ++ ((words.map oneOffBytes).flatten ++ fill)) 2 3 = w.value.toNat :=
      numberAt_of_eq _ (bigEndian 2 w.tag.toNat) ((words.map oneOffBytes).flatten ++ fill) 2 3 _
        (by simp [oneOffBytes]) (by simp) w.value.isLt
    have hdrop : (oneOffBytes w ++ ((words.map oneOffBytes).flatten ++ fill)).drop 5 =
        (words.map oneOffBytes).flatten ++ fill := List.drop_left' (oneOffBytes_length w)
    simp only [List.map_cons, List.flatten_cons, List.append_assoc, List.length_cons, sendWordsOf, htag, hvalue, hdrop, ih,
      (tagOf_iff _ _).2 rfl]
    simp

/-- A tag above 4095 among the places counted is not read. -/
theorem sendWordsOf_eq_none (places : List Byte) (count k : Nat) (hk : k < count)
    (hout : 4095 < fromBytes ((places.drop (5 * k)).take 2)) : sendWordsOf places count = none := by
  induction count generalizing places k with
  | zero => omega
  | succ count ih =>
    cases k with
    | zero =>
      have htag : tagOf (numberAt places 0 2) = none := tagOf_eq_none (by simpa [numberAt] using hout)
      simp [sendWordsOf, htag]
    | succ k =>
      have hrest : sendWordsOf (places.drop 5) count = none := by
        refine ih (places.drop 5) k (by omega) ?_
        rwa [List.drop_drop, show 5 + 5 * k = 5 * (k + 1) by ring]
      simp [sendWordsOf, hrest]

theorem send_range (h : s.Offers r rest) {line count : Byte} {places : List Byte} (hplaces : places.length = 80)
    (hp : r.payload = 0x55 :: line :: count :: places)
    (hout : 11 < line.toNat ∨ count.toNat = 0 ∨ 16 < count.toNat ∨
      ∃ k < count.toNat, 4095 < fromBytes ((places.drop (5 * k)).take 2)) :
    exec .send s = .next { s with link := s.link.replied r .range [] } := by
  have hlength : (0x55 :: line :: count :: places).length = requestLength .send := by
    simp only [List.length_cons, hplaces]
    rfl
  rw [exec_send]
  refine row_refused h hp rfl hlength rfl ?_
  have hline : byteAt (line :: count :: places) 0 = line := rfl
  have hcount : byteAt (line :: count :: places) 1 = count := rfl
  have hdrop : (line :: count :: places).drop 2 = places := rfl
  rw [ruleSend, hline, hcount, hdrop]
  rcases hout with hline | hzero | hmany | ⟨k, hk, htag⟩
  · rw [lineOf_eq_none hline]
  · split
    · exact if_pos (.inl hzero)
    · rfl
  · split
    · exact if_pos (.inr hmany)
    · rfl
  · rw [sendWordsOf_eq_none places count.toNat k hk htag]
    cases lineOf line <;> rfl

variable {n : LineNo} {words : List OneOff} {fill : List Byte}

theorem ruleSend_eq (s : State) (hsome : words ≠ []) (hfew : words.length ≤ 16) :
    ruleSend (BitVec.ofNat 8 n.val :: BitVec.ofNat 8 words.length :: ((words.map oneOffBytes).flatten ++ fill)) s =
      if (s.port n).config.role = .transmit ∨ (s.port n).config.role = .echo then
        if (s.port n).state = .ready ∨ (s.port n).state = .running then
          if (s.port n).sendQueue.length + words.length ≤ 32 then
            .ok (s.withPort n { s.port n with sendQueue := (s.port n).sendQueue ++ words })
              [BitVec.ofNat 8 ((s.port n).sendQueue.length + words.length)]
          else .refuse .full
        else .refuse .state
      else .refuse .state := by
  have hpos : 0 < words.length := List.length_pos_iff.2 hsome
  have hcount : (BitVec.ofNat 8 words.length).toNat = words.length := by
    rw [BitVec.toNat_ofNat]
    omega
  rw [ruleSend]
  simp only [byteAt, List.getD_cons_zero, List.getD_cons_succ, List.drop_succ_cons, List.drop_zero, hcount, lineOf_ofNat,
    sendWordsOf_bytes]
  rw [if_neg (by omega)]
  by_cases hrole : (s.port n).config.role = .transmit ∨ (s.port n).config.role = .echo
  · rw [if_neg (by tauto), if_pos hrole]
    by_cases hstate : (s.port n).state = .ready ∨ (s.port n).state = .running
    · rw [if_neg (by tauto), if_pos hstate]
      by_cases hroom : (s.port n).sendQueue.length + words.length ≤ 32
      · rw [if_neg (by simpa [Config.sendQueueWords] using hroom), if_pos hroom, List.length_append, bigEndian_one]
      · rw [if_pos (by simpa [Config.sendQueueWords] using hroom), if_neg hroom]
    · rw [if_pos (by tauto), if_neg hstate]
  · rw [if_pos (by tauto), if_neg hrole]

theorem send_answers (h : s.Offers r rest) (hsome : words ≠ []) (hfew : words.length ≤ 16)
    (hfill : fill.length = 80 - 5 * words.length)
    (hp : r.payload = 0x55 :: BitVec.ofNat 8 n.val :: BitVec.ofNat 8 words.length ::
      ((words.map oneOffBytes).flatten ++ fill)) :
    exec .send s = .next (
      if (s.port n).config.role = .transmit ∨ (s.port n).config.role = .echo then
        if (s.port n).state = .ready ∨ (s.port n).state = .running then
          if (s.port n).sendQueue.length + words.length ≤ 32 then
            { s.withPort n { s.port n with sendQueue := (s.port n).sendQueue ++ words } with
              link := s.link.replied r .ok [BitVec.ofNat 8 ((s.port n).sendQueue.length + words.length)] }
          else { s with link := s.link.replied r .full [] }
        else { s with link := s.link.replied r .state [] }
      else { s with link := s.link.replied r .state [] }) := by
  have hlength : (0x55 :: BitVec.ofNat 8 n.val :: BitVec.ofNat 8 words.length ::
      ((words.map oneOffBytes).flatten ++ fill)).length = requestLength .send := by
    have hwords : ((words.map oneOffBytes).flatten).length = 5 * words.length := by
      simp [List.length_flatten, oneOffBytes_length, Function.comp_def, Nat.mul_comm]
    simp only [List.length_cons, List.length_append, hwords, hfill]
    change _ = 83
    omega
  have hrule := ruleSend_eq (n := n) (fill := fill) (s.startExecuting r) hsome hfew
  rw [startExecuting_port] at hrule
  rw [exec_send]
  split at hrule
  next hrole =>
    rw [if_pos hrole]
    split at hrule
    next hstate =>
      rw [if_pos hstate]
      split at hrule
      next hroom =>
        have hnext := row_ok h hp rfl hlength rfl hrule rfl
        rw [if_pos hroom]
        exact hnext
      next hroom =>
        rw [if_neg hroom]
        exact row_refused h hp rfl hlength rfl hrule
    next hstate =>
      rw [if_neg hstate]
      exact row_refused h hp rfl hlength rfl hrule
  next hrole =>
    rw [if_neg hrole]
    exact row_refused h hp rfl hlength rfl hrule

end Send

/-- Settles O26: the refusals of the fields, and the words in their order of judgement. -/
theorem send : Obligations.Send :=
  ⟨fun _ _ _ _ _ _ h hplaces hp hout => send_range h hplaces hp hout,
    fun _ _ _ _ _ _ h hsome hfew hfill hp => send_answers h hsome hfew hfill hp⟩

end Sys2Proof.Proofs
end

section
/-! PROOFS. The Tag Table's work on an item (R24 to R32, R45, R49, R52 to R54, R60, R62): O27 and O28. -/

namespace Sys2Proof.Proofs

-- One theorem after another: elaborating them all at once costs a thread and its stack for each.
set_option Elab.async false

open Sys2Proof.Machine Sys2Proof.Laws

/-! ### Taking an item (R18, R24, R62) -/

/-- The state in which the Tag Table works on an item it took (R18). -/
def takenState (s : State) (item : Item) (rest : List Item) : State :=
  { s with intake := rest, busy := some { item := { item with marks := [] }, takenAt := s.time.runClock } }

theorem offerStartMarks_eq (s : State) (n : LineNo) (stamps : List Stamp) :
    s.offerStartMarks n stamps = stamps.foldl (fun t stamp => t.offer n.castSucc
      { body := .mark .lineStart, line := n.castSucc, bits := 0, stamp }) s := rfl

section Take

variable {s : State} {item : Item} {rest : List Item}

theorem exec_intakeTake (s : State) :
    exec .intakeTake s = s.happen fun s =>
      match s.intake with
      | item :: rest => if s.mayTakeItem then s.takeItem item rest else s
      | [] => s := by
  rw [show exec .intakeTake s = execIntakeTake s from rfl, execIntakeTake] <;> rfl

/-- The item is worked on by its kind, and the LINE_START MARKs attached to it follow. -/
theorem intakeTake_takes (h : s.Takes item rest) :
    exec .intakeTake s =
      .next (((takenState s item rest).processItem item).offerStartMarks item.line item.marks) := by
  have hmay : s.mayTakeItem = true := by
    simp [State.mayTakeItem, State.tagTableFree, h.running, h.idle, h.current, h.unclaimed, h.head]
  rw [exec_intakeTake, happen_running _ h.running]
  simp only [h.head, hmay, if_true]
  rfl

theorem processItem_word_none (hword : item.kind = .word)
    (hexact : s.entryOf ⟨.port item.line, lineTag item.bits⟩ = none)
    (hany : s.entryOf ⟨.any, lineTag item.bits⟩ = none) : s.processItem item = s.miss item := by
  simp [State.processItem, hword, State.lookup, hexact, hany]

/-- R25: the exact entry, else the ANY entry. -/
theorem processItem_word_entry {e : Entry} (hword : item.kind = .word)
    (h : s.entryOf ⟨.port item.line, lineTag item.bits⟩ = some e ∨
      s.entryOf ⟨.port item.line, lineTag item.bits⟩ = none ∧ s.entryOf ⟨.any, lineTag item.bits⟩ = some e) :
    s.processItem item = s.processMatched e item := by
  rcases h with h | ⟨hexact, hany⟩
  · simp [State.processItem, hword, State.lookup, h]
  · simp [State.processItem, hword, State.lookup, hexact, hany]

theorem processItem_errorWord {kind : ErrorKind} {count : Nat} (h : item.kind = .errorWord kind count) :
    s.processItem item = s.offer item.line.castSucc
      { body := .errorWord kind count, line := item.line.castSucc, bits := item.bits, stamp := item.stamp } := by
  rw [State.processItem, h]
  rfl

theorem processItem_echo (h : item.kind = .echo) :
    s.processItem item = s.offer item.line.castSucc
      { body := .word ⟨false, false, false, false, false, true⟩, line := item.line.castSucc, bits := item.bits
        stamp := item.stamp } := by
  rw [State.processItem, h]
  rfl

end Take

/-- Settles O27: a miss by the line's miss route, and the two kinds of item that match nothing. -/
theorem takeUnmatched : Obligations.TakeUnmatched := by
  intro s item rest h
  refine ⟨fun hword hexact hany => ?_, fun kind count hkind => ?_, fun hkind => ?_⟩
  · rw [intakeTake_takes h, processItem_word_none (s := takenState s item rest) hword hexact hany, State.miss]
    have hport : (takenState s item rest).port item.line = s.port item.line := rfl
    rw [hport]
    cases (s.port item.line).config.missRoute <;> rfl
  · rw [intakeTake_takes h, processItem_errorWord hkind]
    rfl
  · rw [intakeTake_takes h, processItem_echo hkind]
    rfl

/-! ### The early check (R27, R52 to R54) -/

section Early

variable {s : State} {e : Entry} {item : Item}

theorem earlyInterval_none {now : Nat} (h : ∀ ms last, e.settings.minInterval = some ms → e.lastAccepted = some last →
    ms * 1000 ≤ now - last) : e.earlyInterval now = none := by
  rw [Entry.earlyInterval]
  split
  next ms last hms hlast => exact if_neg (not_lt.2 (h ms last hms hlast))
  next => rfl

theorem earlyInterval_some {now ms last : Nat} (hms : e.settings.minInterval = some ms)
    (hlast : e.lastAccepted = some last) (hearly : now - last < ms * 1000) :
    e.earlyInterval now = some (now - last) := by
  rw [Entry.earlyInterval, hms, hlast]
  exact if_pos hearly

theorem processMatched_accepted (h : e.earlyInterval s.time.runClock = none) :
    s.processMatched e item = s.acceptWord e false item := by
  simp only [State.processMatched, h]

/-- An early word is counted, may be noticed, and is kept or dropped. -/
theorem processMatched_early {interval : Nat} (h : e.earlyInterval s.time.runClock = some interval) :
    s.processMatched e item =
      let counted := { e with early := e.early + 1 }
      let noticed :=
        if e.settings.notifyEarly then
          (s.withEntry counted).queueNotice
            { body := .early e.settings.earlyAction interval, line := some item.line.castSucc
              tag := e.key.tag, stamp := item.stamp }
        else s.withEntry counted
      match e.settings.earlyAction with
      | .drop => noticed
      | .keep => noticed.acceptWord counted true item := by
  simp only [State.processMatched, h]
  cases e.settings.earlyAction <;> rfl

end Early

/-! ### What an accepted word does (R25, R28 to R32, R45, R49) -/

section Accept

variable {s : State} {e : Entry} {item : Item}

theorem changedBy_eq (e : Entry) (value : Value) :
    e.changedBy value = decide (e.latest.map Latest.value ≠ some value) := by
  rw [Entry.changedBy, Bool.eq_iff_iff, decide_eq_true_iff]
  cases e.latest <;> simp

theorem acceptedFreshness_eq (e : Entry) (now : Nat) :
    e.freshness.accepted e.settings.deadline now =
      match e.freshness with
      | .unseen _ | .fresh _ | .stale _ => .fresh (now + e.settings.deadline.getD 0 * 1000)
      | other => other := by
  cases e.freshness <;> rfl

theorem notifies_eq (e : Entry) (value : Value) :
    e.notifies value =
      decide (e.settings.notify = .each ∨ e.settings.notify = .change ∧ e.changedBy value = true) := by
  rw [Entry.notifies]
  cases e.settings.notify <;> simp

theorem holdsBack_eq (e : Entry) (value : Value) :
    (!e.holdsBack value) = decide (e.settings.onChange = false ∨ e.changedBy value = true) := by
  rw [Entry.holdsBack]
  cases e.settings.onChange <;> cases e.changedBy value <;> rfl

/-- R30, R31: the line queue before the merged queue, where on change lets the word pass. -/
theorem route_eq (s : State) (e : Entry) (early : Bool) (item : Item) :
    s.route e early item =
      let record : CaptureRecord :=
        { body := .word { early, first := e.firstDue, changed := e.changedBy (lineValue item.bits)
                          any := e.key.line == .any, miss := false, own := false }
          line := item.line.castSucc, bits := item.bits, stamp := item.stamp }
      let routed := !e.holdsBack (lineValue item.bits)
      let lined := if routed && e.settings.routeLine then s.offer item.line.castSucc record else s
      if routed && e.settings.routeMerged then lined.offer mergedQueue record else lined := by
  cases hheld : e.holdsBack (lineValue item.bits) with
  | true => simp [State.route, hheld]
  | false =>
    simp only [State.route, hheld]
    rfl

theorem noticeFreshAgain_eq (s : State) (e : Entry) (item : Item) :
    s.noticeFreshAgain e item =
      match e.freshness with
      | .stale since => s.queueNotice
          { body := .freshAgain (min 4294967295 ((s.time.runClock - since) / 1000)), line := some item.line.castSucc
            tag := e.key.tag, stamp := item.stamp }
      | _ => s := by
  rw [State.noticeFreshAgain]
  cases e.freshness <;> rfl

/-- What an accepted word does to its entry (R28 to R30, R45). -/
theorem accept_eq (e : Entry) (item : Item) (now : Nat) :
    e.accept item now = { e with
      accepted := e.accepted + 1
      lastAccepted := some now
      firstDue := false
      freshness :=
        match e.freshness with
        | .unseen _ | .fresh _ | .stale _ => .fresh (now + e.settings.deadline.getD 0 * 1000)
        | other => other
      latest := if e.settings.keepLatest then some ⟨lineValue item.bits, item.stamp, item.line⟩ else none
      unchanged := if e.settings.onChange && !decide (e.latest.map Latest.value ≠ some (lineValue item.bits)) then
        e.unchanged + 1 else e.unchanged } := by
  rw [Entry.accept, acceptedFreshness_eq, Entry.holdsBack, changedBy_eq]

end Accept

/-- Settles O28: the entry, the early check, and the steps of an accepted word in their order. -/
theorem takeMatched : Obligations.TakeMatched := by
  refine ⟨fun s item rest e h hword hentry => ⟨fun hinterval => ?accepted, fun ms last hms hlast hearly => ?early⟩,
    fun s e early item => ?steps⟩
  case accepted =>
    have hnone : e.earlyInterval (takenState s item rest).time.runClock = none := earlyInterval_none hinterval
    rw [intakeTake_takes h, processItem_word_entry (s := takenState s item rest) hword hentry,
      processMatched_accepted hnone]
    rfl
  case early =>
    have hsome : e.earlyInterval (takenState s item rest).time.runClock = some (s.time.runClock - last) :=
      earlyInterval_some hms hlast hearly
    rw [intakeTake_takes h, processItem_word_entry (s := takenState s item rest) hword hentry,
      processMatched_early hsome]
    rfl
  case steps =>
    rw [State.acceptWord]
    simp only [State.queueNoticeIf, notifies_eq, decide_eq_true_eq, route_eq, holdsBack_eq, noticeFreshAgain_eq, accept_eq,
      changedBy_eq]
    rfl

end Sys2Proof.Proofs
end

section
/-! PROOFS. The end of the Tag Table's work, expiries and the requests that wait (R18, R22, R33, R43, R44, R46, R48):
O29. -/

namespace Sys2Proof.Proofs

-- One theorem after another: elaborating them all at once costs a thread and its stack for each.
set_option Elab.async false

open Sys2Proof.Machine Sys2Proof.Laws

/-! ### The end of the work (R18) -/

theorem exec_tagTableWorkDone {s : State} (hrunning : s.held = false) {b : Busy} (hbusy : s.busy = some b) :
    exec .tagTableWorkDone s = .next (if s.reached (b.takenAt + 1) then s.workDone b else s) := by
  rw [show exec .tagTableWorkDone s = execTagTableWorkDone s from rfl, execTagTableWorkDone, happen_running _ hrunning]
  simp only [hbusy]
  rfl

theorem exec_tagTableWorkDone_idle {s : State} (hbusy : s.busy = none) : exec .tagTableWorkDone s = .next s := by
  rw [show exec .tagTableWorkDone s = execTagTableWorkDone s from rfl, execTagTableWorkDone]
  cases hheld : s.held with
  | true => exact happen_held _ hheld
  | false =>
    rw [happen_running _ hheld]
    simp only [hbusy]

theorem workDone_eq (s : State) (b : Busy) :
    s.workDone b = s.lineChanges.foldl State.applyLineChange
      (b.item.marks.foldl (fun t stamp => t.offer b.item.line.castSucc
          { body := .mark .lineStart, line := b.item.line.castSucc, bits := 0, stamp })
        { s with busy := none, lineChanges := [] }) := rfl

/-! ### A line starts: its exact entries (R22, R43) -/

theorem atStart_eq (receive : Bool) (t0 : Nat) (e : Entry) :
    e.atStart receive t0 =
      { e with
        firstDue := true
        freshness :=
          match e.freshness, e.settings.deadline with
          | .idle, some ms => if receive then .unseen (t0 + ms * 1000) else .idle
          | other, _ => other } := by
  cases hfresh : e.freshness <;> cases hdeadline : e.settings.deadline <;> cases receive <;>
    simp [Entry.atStart, hfresh, hdeadline]

theorem applyLineChange_started (s : State) (line : LineNo) (receive : Bool) (t0 : Nat) :
    s.applyLineChange (.started line receive t0) = { s with
      tags := s.tags.map (fun e =>
        if e.key.line = .port line then
          { e with
            firstDue := true
            freshness :=
              match e.freshness, e.settings.deadline with
              | .idle, some ms => if receive then .unseen (t0 + ms * 1000) else .idle
              | other, _ => other }
        else e) } := by
  have heach : (fun e : Entry => if e.key.line = .port line then e.atStart receive t0 else e) = fun e =>
      if e.key.line = .port line then
        { e with
          firstDue := true
          freshness :=
            match e.freshness, e.settings.deadline with
            | .idle, some ms => if receive then .unseen (t0 + ms * 1000) else .idle
            | other, _ => other }
      else e := funext fun e => by rw [atStart_eq]
  rw [← heach]
  rfl

/-! ### A line stops: the expiries that waited, and its exact entries (R44, R46) -/

theorem atStop_eq (e : Entry) :
    e.atStop = { e with freshness := if e.freshness = .none then .none else .idle } := by
  cases hfresh : e.freshness <;> simp [Entry.atStop, hfresh]

/-- The expiry of an exact entry of the line waited since before the moment (R46). -/
def waitedSince (line : LineNo) (moment : Nat) (e : Entry) : Bool :=
  decide (e.key.line = .port line) &&
    match e.freshness with
    | .unseen expiry | .fresh expiry => decide (expiry < moment)
    | _ => false

/-- The STALE notice of an exact entry of the line (R48). -/
def expiredNotice (line : LineNo) (stamp : Stamp) (e : Entry) : Notice :=
  { body := .stale (match e.freshness with | .fresh _ => true | _ => false) (e.settings.deadline.getD 0)
    line := some line.castSucc, tag := e.key.tag, stamp }

theorem optionalNumber_eq (o : Option Nat) : optionalNumber o = o.getD 0 := by cases o <;> rfl

/-- An expiry: the entry goes STALE since its expiry time, with its notice. -/
theorem expire_exact {s : State} {e : Entry} {line : LineNo} {t : Nat} (hline : e.key.line = .port line)
    (hexpiry : e.freshness = .unseen t ∨ e.freshness = .fresh t) :
    s.expire e = (s.withEntry { e with freshness := .stale t }).queueNotice (expiredNotice line s.now e) := by
  rcases hexpiry with h | h <;> simp only [State.expire, expiredNotice, h, hline, optionalNumber_eq]

/-- One of the expiries that a stop takes first: it happens exactly where it waited since before the stop. -/
theorem expireIfBefore_eq (line : LineNo) (moment : Nat) (s : State) (e : Entry) :
    waitedSince line moment e = false ∧ expireIfBefore line moment s e = s ∨
    waitedSince line moment e = true ∧ ∃ t, expireIfBefore line moment s e =
      (s.withEntry { e with freshness := .stale t }).queueNotice (expiredNotice line s.now e) := by
  have hmonitored (t : Nat) (h : e.freshness = .unseen t ∨ e.freshness = .fresh t) :
      waitedSince line moment e = decide (e.key.line = .port line ∧ t < moment) ∧
        expireIfBefore line moment s e = if e.key.line = .port line ∧ t < moment then s.expire e else s := by
    rcases h with h | h <;> simp [waitedSince, expireIfBefore, Freshness.expiry, h]
  have htaken (t : Nat) (h : e.freshness = .unseen t ∨ e.freshness = .fresh t) :
      waitedSince line moment e = false ∧ expireIfBefore line moment s e = s ∨
      waitedSince line moment e = true ∧ ∃ t, expireIfBefore line moment s e =
        (s.withEntry { e with freshness := .stale t }).queueNotice (expiredNotice line s.now e) := by
    obtain ⟨hwaited, hexpire⟩ := hmonitored t h
    rw [hwaited, hexpire]
    by_cases hdue : e.key.line = .port line ∧ t < moment
    · rw [if_pos hdue, expire_exact hdue.1 h]
      exact .inr ⟨decide_eq_true hdue, t, rfl⟩
    · rw [if_neg hdue]
      exact .inl ⟨decide_eq_false hdue, rfl⟩
  cases hfresh : e.freshness with
  | unseen t => exact htaken t (.inl hfresh)
  | fresh t => exact htaken t (.inr hfresh)
  | none => exact .inl ⟨by simp [waitedSince, hfresh], by simp [expireIfBefore, hfresh, Freshness.expiry]⟩
  | idle => exact .inl ⟨by simp [waitedSince, hfresh], by simp [expireIfBefore, hfresh, Freshness.expiry]⟩
  | stale since => exact .inl ⟨by simp [waitedSince, hfresh], by simp [expireIfBefore, hfresh, Freshness.expiry]⟩

theorem queueNotice_now (s : State) (x : Notice) : (s.queueNotice x).now = s.now := by simp [State.now]

theorem queueNotice_withTags (s : State) (tags : List Entry) (x : Notice) :
    { s with tags }.queueNotice x = { s.queueNotice x with tags } := by
  simp only [State.queueNotice]
  split <;> rfl

theorem queueNotices_withTags (f : Entry → Notice) (entries : List Entry) (s : State) (tags : List Entry) :
    entries.foldl (fun t e => t.queueNotice (f e)) { s with tags } =
      { entries.foldl (fun t e => t.queueNotice (f e)) s with tags } := by
  induction entries generalizing s with
  | nil => rfl
  | cons e rest ih =>
    rw [List.foldl_cons, List.foldl_cons, queueNotice_withTags]
    exact ih _

/-- The exact entries of a line that has stopped (R44). -/
def stopEntries (line : LineNo) (tags : List Entry) : List Entry :=
  tags.map fun e => if e.key.line = .port line then e.atStop else e

theorem mapEntriesOf_atStop (line : LineNo) (s : State) :
    s.mapEntriesOf line Entry.atStop = { s with tags := stopEntries line s.tags } := rfl

theorem atStop_stale {e : Entry} (t : Nat) (h : e.freshness ≠ .none) :
    { e with freshness := .stale t }.atStop = e.atStop := by
  simp [atStop_eq, h]

/-- A stop takes an entry to IDLE, whether its expiry came first or not. -/
theorem stopEntries_withEntry {line : LineNo} {s : State} {e : Entry} (t : Nat)
    (hnone : e.freshness ≠ .none) (hline : e.key.line = .port line)
    (halike : ∀ x ∈ s.tags, x.key = e.key → x.atStop = e.atStop) :
    stopEntries line (s.withEntry { e with freshness := .stale t }).tags = stopEntries line s.tags := by
  simp only [stopEntries, State.withEntry, List.map_map]
  refine List.map_congr_left fun x hx => ?_
  simp only [Function.comp_apply]
  by_cases hkey : x.key = e.key
  · rw [if_pos hkey, if_pos hline, if_pos (hkey ▸ hline), atStop_stale t hnone, halike x hx hkey]
  · rw [if_neg hkey]

theorem waitedSince_spec {line : LineNo} {moment : Nat} {e : Entry} (h : waitedSince line moment e = true) :
    e.key.line = .port line ∧ e.freshness ≠ .none := by
  simp only [waitedSince, Bool.and_eq_true, decide_eq_true_eq] at h
  refine ⟨h.1, fun hnone => ?_⟩
  simp [hnone] at h

/-- The expiries that waited, and then the stop: the notices of the entries that waited, and every entry at IDLE. -/
theorem expireThenStop (line : LineNo) (moment : Nat) (entries : List Entry) (s : State)
    (halike : ∀ e ∈ entries, ∀ x ∈ s.tags, x.key = e.key → x.atStop = e.atStop) :
    (entries.foldl (expireIfBefore line moment) s).mapEntriesOf line Entry.atStop =
      { (entries.filter (waitedSince line moment)).foldl
          (fun t e => t.queueNotice (expiredNotice line s.now e)) s with tags := stopEntries line s.tags } := by
  induction entries generalizing s with
  | nil => rfl
  | cons e rest ih =>
    rw [List.foldl_cons]
    rcases expireIfBefore_eq line moment s e with ⟨hwaited, hsame⟩ | ⟨hwaited, t, hstale⟩
    · rw [hsame, List.filter_cons_of_neg (by simp [hwaited])]
      exact ih s fun other hother => halike other (List.mem_cons_of_mem e hother)
    · obtain ⟨hline, hnone⟩ := waitedSince_spec hwaited
      have hkept := stopEntries_withEntry t hnone hline (halike e List.mem_cons_self)
      generalize htags : (s.withEntry { e with freshness := .stale t }).tags = tags at hkept
      have hshape : (s.withEntry { e with freshness := .stale t }).queueNotice (expiredNotice line s.now e) =
          { s.queueNotice (expiredNotice line s.now e) with tags } := by
        rw [← htags]
        exact queueNotice_withTags s _ _
      rw [hstale, hshape, List.filter_cons_of_pos hwaited, List.foldl_cons]
      refine (ih _ ?_).trans ?_
      · intro other hother x hx hkey
        change x ∈ tags at hx
        rw [← htags] at hx
        obtain ⟨y, hy, rfl⟩ := List.mem_map.1 hx
        by_cases hsame : y.key = e.key
        · rw [if_pos hsame] at hkey ⊢
          rw [atStop_stale t hnone, ← halike e List.mem_cons_self y hy hsame]
          exact halike other (List.mem_cons_of_mem e hother) y hy (hsame.trans hkey)
        · rw [if_neg hsame] at hkey ⊢
          exact halike other (List.mem_cons_of_mem e hother) y hy hkey
      · change { (rest.filter (waitedSince line moment)).foldl
            (fun u x => u.queueNotice (expiredNotice line (s.queueNotice (expiredNotice line s.now e)).now x))
            { s.queueNotice (expiredNotice line s.now e) with tags } with tags := stopEntries line tags } = _
        rw [queueNotice_now, queueNotices_withTags, hkept]

/-- In listing order no key stands twice (R19). -/
theorem eq_of_key {tags : List Entry} (hsorted : tags.Pairwise fun a b => a.key.rank < b.key.rank) {x e : Entry}
    (hx : x ∈ tags) (he : e ∈ tags) (hkey : x.key = e.key) : x = e := by
  have halike : tags.Pairwise fun a b => a.key = b.key → a = b :=
    hsorted.imp fun hlt hsame => absurd (congrArg Key.rank hsame) (Nat.ne_of_lt hlt)
  have : Std.Symm fun a b : Entry => a.key = b.key → a = b := ⟨fun _ _ h hsame => (h hsame.symm).symm⟩
  exact halike.forall_of_forall (fun _ _ _ => rfl) hx he hkey

theorem applyLineChange_stopped {s : State} (line : LineNo) (moment : Nat)
    (hsorted : s.tags.Pairwise fun a b => a.key.rank < b.key.rank) :
    s.applyLineChange (.stopped line moment) =
      { (s.tags.filter (waitedSince line moment)).foldl
          (fun t e => t.queueNotice (expiredNotice line s.now e)) s with
        tags := s.tags.map (fun e =>
          if e.key.line = .port line then
            { e with freshness := if e.freshness = .none then .none else .idle }
          else e) } := by
  have heach : stopEntries line s.tags = s.tags.map (fun e =>
      if e.key.line = .port line then { e with freshness := if e.freshness = .none then .none else .idle }
      else e) := List.map_congr_left fun e _ => by rw [atStop_eq]
  rw [← heach, ← expireThenStop line moment s.tags s fun e he x hx hkey => by rw [eq_of_key hsorted hx he hkey]]
  rfl

/-! ### An expiry (R46, R48) -/

theorem exec_freshnessExpiry {s : State} {line : LineNo} {tag : Tag} {e : Entry} (hrunning : s.held = false)
    (hentry : s.entryOf ⟨.port line, tag⟩ = some e) :
    exec (.freshnessExpiry line tag) s = .next (if s.busy.isNone && s.expiryDue e then s.expire e else s) := by
  rw [show exec (.freshnessExpiry line tag) s = execFreshnessExpiry line tag s from rfl, execFreshnessExpiry,
    happen_running _ hrunning]
  simp only [hentry]

theorem expiryDue_iff {s : State} {e : Entry} {expiry : Nat}
    (h : e.freshness = .unseen expiry ∨ e.freshness = .fresh expiry) :
    s.expiryDue e = true ↔ expiry ≤ s.time.runClock := by
  rcases h with h | h <;> simp [State.expiryDue, Freshness.expiry, h, State.reached]

theorem expiredNotice_eq {s : State} {line : LineNo} {tag : Tag} {e : Entry} {expiry ms : Nat}
    (hkey : e.key = ⟨.port line, tag⟩) (hdeadline : e.settings.deadline = some ms)
    (h : e.freshness = .unseen expiry ∨ e.freshness = .fresh expiry) :
    expiredNotice line s.now e =
      { body := .stale (e.freshness == .fresh expiry) ms, line := some line.castSucc, tag
        stamp := ⟨s.time.lineTime, s.time.epoch⟩ } := by
  rcases h with h | h <;> simp [expiredNotice, h, hkey, hdeadline, State.now]

/-! ### Tag Table requests that wait (R33, R46) -/

theorem tagRow_spec : ∀ row ∈ requestTable, 0x20 ≤ row.code.toNat → row.code.toNat ≤ 0x25 →
    isTagRequest row.command = true ∧ requestLength row.command = row.length := by decide

theorem exec_tagRow {c : Instr} (h : isTagRequest c = true) :
    ∃ rule, ∀ s, exec c s = s.happen (State.carryOut c rule) := by
  cases c
  case addTag => exact ⟨ruleAddTag, fun s => rfl⟩
  case changeTag => exact ⟨ruleChangeTag, fun s => rfl⟩
  case removeTag => exact ⟨ruleRemoveTag, fun s => rfl⟩
  case readTag => exact ⟨ruleReadTag, fun s => rfl⟩
  case listTags => exact ⟨ruleListTags, fun s => rfl⟩
  case clearTags => exact ⟨ruleClearTags, fun s => rfl⟩
  all_goals cases h

section Waits

variable {s : State} {r : Request} {c : Instr}

theorem tagTableFree_false (h : s.busy ≠ none ∨ s.expiryWaits = true) : s.tagTableFree = false := by
  rcases h with h | h
  · simp [State.tagTableFree, h]
  · simp [State.tagTableFree, h]

/-- A Tag Table request of the right length waits in execution while the table is not free. -/
theorem carryOut_waits (rule : List Byte → State → Answer) (hfor : s.requestFor c = some r)
    (htag : isTagRequest c = true) (hlength : r.payload.length = requestLength c)
    (hwaits : s.busy ≠ none ∨ s.expiryWaits = true) : s.carryOut c rule = s.startExecuting r := by
  have hfree : (s.startExecuting r).tagTableFree = false := tagTableFree_false (s := s.startExecuting r) hwaits
  simp [State.carryOut, hfor, hlength, htag, hfree]

theorem requestFor_waiting (h : s.link.executing = some ⟨r, .atTagTable⟩) (hc : requestCommand r.payload = c) :
    s.requestFor c = some r := by
  simp [State.requestFor, h, hc]

theorem startExecuting_waiting (h : s.link.executing = some ⟨r, .atTagTable⟩) : s.startExecuting r = s := by
  simp only [State.startExecuting, h, Option.isNone_some, Bool.false_eq_true, if_false]
  rw [← h]

/-- The state in which a request that waits for the Tag Table has not been taken yet. -/
def untaken (s : State) (r : Request) : State :=
  { s with link := { s.link with executing := none, requests := r :: s.link.requests } }

/-- A request that waited is carried out as if it were taken now. -/
theorem carryOut_untaken (rule : List Byte → State → Answer) (h : s.link.executing = some ⟨r, .atTagTable⟩)
    (hrunning : s.held = false) (hroom : s.link.replies.length < 8) (hc : requestCommand r.payload = c) :
    s.carryOut c rule = (untaken s r).carryOut c rule := by
  have hoffers : (untaken s r).Offers r s.link.requests := ⟨hrunning, rfl, rfl, hroom⟩
  have hstart : (untaken s r).startExecuting r = s := by
    rw [State.startExecuting]
    simp only [untaken, Option.isNone_none, if_true, List.tail_cons, ← h]
  simp only [State.carryOut, requestFor_waiting h hc, requestFor_offered hoffers hc, startExecuting_waiting h, hstart]

end Waits

/-- INTAKE_TAKE does nothing where the Tag Table may not take an item (R18, R33, R46). -/
theorem intakeTake_waits {s : State} (h : s.busy ≠ none ∨ (∃ r, s.link.executing = some ⟨r, .atTagTable⟩) ∨
    s.intake = [] ∨ (∃ e ∈ s.tags, ∃ expiry, (e.freshness = .unseen expiry ∨ e.freshness = .fresh expiry) ∧
      expiry < s.time.runClock)) : exec .intakeTake s = .next s := by
  have hmay : s.mayTakeItem = false := by
    rcases h with hbusy | ⟨r, hr⟩ | hempty | ⟨e, he, expiry, hfresh, hpast⟩
    · simp [State.mayTakeItem, tagTableFree_false (.inl hbusy)]
    · simp [State.mayTakeItem, State.tagRequestWaits, hr]
    · simp [State.mayTakeItem, hempty]
    · have hwaits : s.expiryWaits = true := List.any_eq_true.2 ⟨e, he, by
        rcases hfresh with hfresh | hfresh <;> simp [hfresh, Freshness.expiry, hpast]⟩
      simp [State.mayTakeItem, tagTableFree_false (.inr hwaits)]
  rw [exec_intakeTake]
  cases hheld : s.held with
  | true => exact happen_held _ hheld
  | false =>
    rw [happen_running _ hheld]
    cases hintake : s.intake with
    | nil => rfl
    | cons item rest => simp only [hmay, Bool.false_eq_true, if_false]

/-- Settles O29: the notices of the expiries that a stop takes first by induction on the entries. -/
theorem tagTableTimed : Obligations.TagTableTimed := by
  unfold Obligations.TagTableTimed
  refine ⟨fun s b hrunning hbusy => ⟨fun hearly => ?_, fun hpast => ?_⟩, applyLineChange_started,
    fun s line moment hsorted => applyLineChange_stopped line moment hsorted,
    fun s hbusy => exec_tagTableWorkDone_idle hbusy,
    fun s line tag e expiry ms hrunning hentry hdeadline hfresh => ⟨fun hdue hbusy => ?_, fun hwaits => ?_⟩,
    fun s r row hrow hrunning hlow hhigh hcommand hlength => ?_, fun s h => intakeTake_waits h⟩
  · have hnot : s.reached (b.takenAt + 1) = false := decide_eq_false (Nat.not_le.2 (Nat.lt_succ_of_le hearly))
    rw [exec_tagTableWorkDone hrunning hbusy, hnot]
    rfl
  · have hreached : s.reached (b.takenAt + 1) = true := decide_eq_true hpast
    rw [exec_tagTableWorkDone hrunning hbusy, hreached, if_pos rfl, workDone_eq]
  · have hkey := (entryOf_mem hentry).2
    rw [exec_freshnessExpiry hrunning hentry, hbusy, (expiryDue_iff hfresh).2 hdue,
      ← expiredNotice_eq hkey hdeadline hfresh, ← expire_exact (congrArg Key.line hkey) hfresh]
    rfl
  · have hnot : (s.busy.isNone && s.expiryDue e) = false := by
      rcases hwaits with hearly | hbusy
      · rw [Bool.eq_false_iff.2 fun h => absurd ((expiryDue_iff hfresh).1 h) (Nat.not_le.2 hearly), Bool.and_false]
      · rw [Option.isNone_eq_false_iff.2 (Option.isSome_iff_ne_none.2 hbusy), Bool.false_and]
    rw [exec_freshnessExpiry hrunning hentry, hnot]
    rfl
  · obtain ⟨htag, hrowLength⟩ := tagRow_spec row hrow hlow hhigh
    obtain ⟨rule, hexec⟩ := exec_tagRow htag
    have hlen := hlength.trans hrowLength.symm
    refine ⟨fun rest hoffers hwaits => ?_, fun hexecuting hwaits => ?_, fun hexecuting hroom => ?_⟩
    · rw [hexec, happen_running _ hrunning,
        carryOut_waits rule (requestFor_offered hoffers hcommand) htag hlen hwaits, ← startExecuting_link hoffers]
      rfl
    · rw [hexec, happen_running _ hrunning,
        carryOut_waits rule (requestFor_waiting hexecuting hcommand) htag hlen hwaits,
        startExecuting_waiting hexecuting]
    · rw [hexec, hexec, happen_running _ hrunning, carryOut_untaken rule hexecuting hrunning hroom hcommand]
      exact (happen_running (s := untaken s r) _ hrunning).symm

end Sys2Proof.Proofs
end

section
/-! PROOFS. The requests of the Tag Table (R34 to R36, R38, R39, R42, R50): O30 and O31. -/

namespace Sys2Proof.Proofs

-- One theorem after another: elaborating them all at once costs a thread and its stack for each.
set_option Elab.async false

open Sys2Proof.Machine Sys2Proof.Laws

/-! ### Rows of the Tag Table (R33, R148, R149) -/

section TagRow

variable {s : State} {r : Request} {rest : List Request} {code : Byte} {fields : List Byte} {command : Instr}
  {rule : List Byte → State → Answer}

/-- A Tag Table request that its rule accepts, from its bytes. -/
theorem tagRow_ok (h : s.OffersTag r rest) (hp : r.payload = code :: fields)
    (hc : requestCommand (code :: fields) = command) (hl : (code :: fields).length = requestLength command)
    {t : State} {results : List Byte} (hr : rule fields (s.startExecuting r) = .ok t results)
    (hk : t.link = (s.startExecuting r).link) :
    s.happen (State.carryOut command rule) = .next { t with link := s.link.replied r .ok results } :=
  tagRequest_ok h (by rw [hp, hc]) (by rw [hp, hl]) t results (by rw [hp]; exact hr) hk

/-- A Tag Table request that its rule refuses, from its bytes. -/
theorem tagRow_refused (h : s.OffersTag r rest) (hp : r.payload = code :: fields)
    (hc : requestCommand (code :: fields) = command) (hl : (code :: fields).length = requestLength command)
    {status : Status} (hr : rule fields (s.startExecuting r) = .refuse status) :
    s.happen (State.carryOut command rule) = .next { s with link := s.link.replied r status [] } :=
  tagRequest_refused h (by rw [hp, hc]) (by rw [hp, hl]) status (by rw [hp]; exact hr)

end TagRow

theorem exec_addTag (s : State) : exec .addTag s = s.happen (State.carryOut .addTag ruleAddTag) := rfl

theorem exec_changeTag (s : State) : exec .changeTag s = s.happen (State.carryOut .changeTag ruleChangeTag) := rfl

theorem exec_removeTag (s : State) : exec .removeTag s = s.happen (State.carryOut .removeTag ruleRemoveTag) := rfl

theorem exec_listTags (s : State) : exec .listTags s = s.happen (State.carryOut .listTags ruleListTags) := rfl

theorem exec_clearTags (s : State) : exec .clearTags s = s.happen (State.carryOut .clearTags ruleClearTags) := rfl

/-! ### The codes and fields of ADD_TAG and CHANGE_TAG (section 11.2, R21, R173) -/

theorem notifyByte_eq (notify : Notify) :
    notifyByte notify = match notify with | .none => 0 | .each => 1 | .change => 2 := by cases notify <;> rfl

theorem earlyActionByte_eq (action : EarlyAction) :
    earlyActionByte action = match action with | .keep => 0 | .drop => 1 := by cases action <;> rfl

theorem routeByte_cases (line merged : Bool) :
    routeByte (line, merged) =
      match line, merged with | false, false => 0 | true, false => 1 | false, true => 2 | true, true => 3 := by
  cases line <;> cases merged <;> rfl

theorem keyBytes_eq (key : Key) :
    keyBytes key = (match key.line with | .port n => BitVec.ofNat 8 n.val | .any => 12) :: bigEndian 2 key.tag.toNat := by
  cases hline : key.line <;> simp only [keyBytes, hline] <;> rfl

section EntryFields

variable {line : Byte} {number : Nat} {bytes : List Byte} {key : Key} {t : EntrySettings}

theorem entrySettings_after {fields front : List Byte} (hfields : fields = front ++ bytes) (hfront : front.length = 3)
    (hbytes : bytes.length = 10) (t : EntrySettings) : entrySettingsOf fields 3 = some t ↔ t.Encoded bytes := by
  subst hfields
  rw [← hfront]
  simpa using entrySettingsOf_iff t bytes front [] hbytes

theorem settings_after_key (hbytes : bytes.length = 10) (ht : t.Encoded bytes) :
    entrySettingsOf (keyBytes key ++ bytes) 3 = some t :=
  (entrySettings_after rfl (by simp [keyBytes]) hbytes t).2 ht

/-- A key or settings that are not in range are not read. -/
theorem keyOrSettings_none (hnumber : number < 65536) (hbytes : bytes.length = 10)
    (hout : 12 < line.toNat ∨ 4095 < number ∨ ∀ t, ¬ EntrySettings.Encoded t bytes) :
    keyOf (line :: (bigEndian 2 number ++ bytes)) 0 = none ∨
      entrySettingsOf (line :: (bigEndian 2 number ++ bytes)) 3 = none := by
  have hkey (h : 12 < line.toNat ∨ 4095 < number) := keyOf_eq_none hnumber h bytes
  rcases hout with hline | htag | hsettings
  · exact .inl (hkey (.inl hline))
  · exact .inl (hkey (.inr htag))
  · refine .inr (Option.eq_none_iff_forall_ne_some.2 fun t ht => hsettings t ?_)
    exact (entrySettings_after (front := line :: bigEndian 2 number) rfl (by simp) hbytes t).1 ht

/-! ### What ADD_TAG and CHANGE_TAG answer (R34, R35) -/

theorem ruleAddTag_range {fields : List Byte} (h : keyOf fields 0 = none ∨ entrySettingsOf fields 3 = none)
    (s : State) : ruleAddTag fields s = .refuse .range := by
  rw [ruleAddTag]
  rcases h with h | h <;> rw [h]
  cases keyOf fields 0 <;> rfl

theorem ruleChangeTag_range {fields : List Byte} (h : keyOf fields 0 = none ∨ entrySettingsOf fields 3 = none)
    (s : State) : ruleChangeTag fields s = .refuse .range := by
  rw [ruleChangeTag]
  rcases h with h | h <;> rw [h]
  cases keyOf fields 0 <;> rfl

theorem insertEntry_length (e : Entry) (tags : List Entry) : (insertEntry e tags).length = tags.length + 1 := by
  induction tags with
  | nil => rfl
  | cons other rest ih =>
    rw [insertEntry]
    split
    · rfl
    · rw [List.length_cons, ih, List.length_cons]

/-- The entry that ADD_TAG enters, with fresh state (R34). -/
def addedEntry (s : State) (key : Key) (t : EntrySettings) : Entry :=
  { key, settings := t, freshness := s.firstFreshness key t.deadline }

/-- An entry as CHANGE_TAG leaves it (R35, R50). -/
def changedEntry (s : State) (e : Entry) (t : EntrySettings) : Entry :=
  { e with
    settings := t
    latest := if t.keepLatest then e.latest else none
    freshness := s.changedFreshness e t.deadline }

theorem ruleAddTag_eq (hbytes : bytes.length = 10) (ht : t.Encoded bytes) (s : State) :
    ruleAddTag (keyBytes key ++ bytes) s =
      if t.allowedFor key = false then .refuse .range
      else if (s.entryOf key).isSome then .refuse .exists
      else if s.tags.length ≥ 640 then .refuse .full
      else .ok { s with tags := insertEntry (addedEntry s key t) s.tags } (bigEndian 2 (s.tags.length + 1)) := by
  rw [ruleAddTag, keyOf_keyBytes, settings_after_key hbytes ht]
  simp only [insertEntry_length, Config.tagEntries, addedEntry]

theorem ruleChangeTag_eq (hbytes : bytes.length = 10) (ht : t.Encoded bytes) (s : State) :
    ruleChangeTag (keyBytes key ++ bytes) s =
      if t.allowedFor key = false then .refuse .range
      else match s.entryOf key with
        | none => .refuse .absent
        | some e => .ok (s.withEntry (changedEntry s e t)) [] := by
  rw [ruleChangeTag, keyOf_keyBytes, settings_after_key hbytes ht] <;> cases hentry : s.entryOf key <;>
    simp only [hentry] <;> rfl

/-! ### ADD_TAG and CHANGE_TAG as requests -/

variable {s : State} {r : Request} {rest : List Request}

theorem tagSettings_length (hbytes : bytes.length = 10) (code : Byte) :
    (code :: (keyBytes key ++ bytes)).length = 14 := by
  simp [keyBytes, hbytes]

theorem addTag_range (h : s.OffersTag r rest) (hnumber : number < 65536) (hbytes : bytes.length = 10)
    (hout : 12 < line.toNat ∨ 4095 < number ∨ ∀ t, ¬ EntrySettings.Encoded t bytes)
    (hp : r.payload = 0x20 :: line :: (bigEndian 2 number ++ bytes)) :
    exec .addTag s = .next { s with link := s.link.replied r .range [] } := by
  rw [exec_addTag]
  exact tagRow_refused h hp rfl (by simp [hbytes]; rfl) (ruleAddTag_range (keyOrSettings_none hnumber hbytes hout) _)

theorem changeTag_range (h : s.OffersTag r rest) (hnumber : number < 65536) (hbytes : bytes.length = 10)
    (hout : 12 < line.toNat ∨ 4095 < number ∨ ∀ t, ¬ EntrySettings.Encoded t bytes)
    (hp : r.payload = 0x21 :: line :: (bigEndian 2 number ++ bytes)) :
    exec .changeTag s = .next { s with link := s.link.replied r .range [] } := by
  rw [exec_changeTag]
  exact tagRow_refused h hp rfl (by simp [hbytes]; rfl)
    (ruleChangeTag_range (keyOrSettings_none hnumber hbytes hout) _)

/-- ADD_TAG with a status that its rule refuses it with. -/
theorem addTag_refused (h : s.OffersTag r rest) (hbytes : bytes.length = 10)
    (hp : r.payload = 0x20 :: (keyBytes key ++ bytes)) {status : Status}
    (hrule : ruleAddTag (keyBytes key ++ bytes) (s.startExecuting r) = .refuse status) :
    exec .addTag s = .next { s with link := s.link.replied r status [] } := by
  rw [exec_addTag]
  exact tagRow_refused h hp rfl (tagSettings_length hbytes _) hrule

theorem changeTag_refused (h : s.OffersTag r rest) (hbytes : bytes.length = 10)
    (hp : r.payload = 0x21 :: (keyBytes key ++ bytes)) {status : Status}
    (hrule : ruleChangeTag (keyBytes key ++ bytes) (s.startExecuting r) = .refuse status) :
    exec .changeTag s = .next { s with link := s.link.replied r status [] } := by
  rw [exec_changeTag]
  exact tagRow_refused h hp rfl (tagSettings_length hbytes _) hrule

theorem addTag_enters (h : s.OffersTag r rest) (hbytes : bytes.length = 10) (ht : t.Encoded bytes)
    (hp : r.payload = 0x20 :: (keyBytes key ++ bytes)) (hallowed : t.Allowed key) (hnew : s.entryOf key = none)
    (hroom : s.tags.length < 640) :
    exec .addTag s = .next { s with
      tags := insertEntry (addedEntry s key t) s.tags
      link := s.link.replied r .ok (bigEndian 2 (s.tags.length + 1)) } := by
  have hrule := ruleAddTag_eq (key := key) hbytes ht (s.startExecuting r)
  rw [if_neg (by simp [(allowedFor_iff t key).2 hallowed]), startExecuting_entryOf, hnew, if_neg (by simp),
    startExecuting_tags, if_neg (Nat.not_le.2 hroom)] at hrule
  have hnext := tagRow_ok h hp rfl (tagSettings_length hbytes _) hrule rfl
  rw [exec_addTag]
  exact hnext

theorem changeTag_changes (h : s.OffersTag r rest) (hbytes : bytes.length = 10) (ht : t.Encoded bytes)
    (hp : r.payload = 0x21 :: (keyBytes key ++ bytes)) (hallowed : t.Allowed key) {e : Entry}
    (hentry : s.entryOf key = some e) :
    exec .changeTag s = .next { s.withEntry (changedEntry s e t) with link := s.link.replied r .ok [] } := by
  have hrule := ruleChangeTag_eq (key := key) hbytes ht (s.startExecuting r)
  rw [if_neg (by simp [(allowedFor_iff t key).2 hallowed]), startExecuting_entryOf, hentry] at hrule
  have hnext := tagRow_ok h hp rfl (tagSettings_length hbytes _) hrule rfl
  rw [exec_changeTag]
  exact hnext

end EntryFields

/-! ### First and changed freshness (R42, R50) -/

theorem monitoring_iff (p : Port) : p.monitoring = true ↔ p.config.role = .receive ∧ p.state = .running := by
  simp [Port.monitoring, and_comm]

theorem firstFreshness_eq (s : State) (key : Key) (deadline : Option Nat) :
    s.firstFreshness key deadline =
      match deadline, key.line with
      | none, _ => .none
      | some ms, .port n =>
        if (s.port n).config.role = .receive ∧ (s.port n).state = .running then
          .unseen (s.time.runClock + ms * 1000)
        else .idle
      | some _, .any => .idle := by
  cases deadline with
  | none => rfl
  | some ms =>
    cases hline : key.line with
    | port n => simp only [State.firstFreshness, hline, monitoring_iff]
    | any => simp only [State.firstFreshness, hline]

/-- R50: freshness as CHANGE_TAG gives it. -/
theorem changedFreshness_eq (s : State) (e : Entry) (deadline : Option Nat) :
    s.changedFreshness e deadline =
      if deadline = e.settings.deadline then e.freshness
      else match deadline, e.freshness with
        | none, _ => .none
        | some _, .none => s.firstFreshness e.key deadline
        | some ms, .unseen _ => .unseen (s.time.runClock + ms * 1000)
        | some ms, .fresh _ => .fresh (s.time.runClock + ms * 1000)
        | some _, .stale since => .stale since
        | some _, .idle => .idle := by
  rw [State.changedFreshness.eq_def] <;> cases deadline <;> cases e.freshness <;> rfl

/-- Settles O30: the rows' refusals and effects, the entry's state as `firstFreshness` and `changedFreshness` give it. -/
theorem addAndChangeTag : Obligations.AddAndChangeTag := by
  refine ⟨notifyByte_eq, earlyActionByte_eq, routeByte_cases, keyBytes_eq,
    fun s r rest line number bytes h hnumber hbytes => ⟨fun hout =>
      ⟨addTag_range h hnumber hbytes hout, changeTag_range h hnumber hbytes hout⟩, fun key t ht => ?_⟩⟩
  have hadd := ruleAddTag_eq (key := key) hbytes ht (s.startExecuting r)
  have hchange := ruleChangeTag_eq (key := key) hbytes ht (s.startExecuting r)
  have hnot (hallowed : ¬ t.Allowed key) : t.allowedFor key = false :=
    Bool.eq_false_iff.2 fun htrue => hallowed ((allowedFor_iff t key).1 htrue)
  have hyes (hallowed : t.Allowed key) : ¬ t.allowedFor key = false := by
    simp [(allowedFor_iff t key).2 hallowed]
  refine ⟨fun hp => ⟨fun hallowed => ?_, fun hallowed hexists => ?_, fun hallowed hnew hfull => ?_,
    fun hallowed hnew hroom => ?_⟩, fun hp => ⟨fun hallowed => ?_, fun hallowed habsent => ?_,
    fun e hallowed hentry => ?_⟩⟩
  · exact addTag_refused h hbytes hp (hadd.trans (if_pos (hnot hallowed)))
  · rw [if_neg (hyes hallowed), startExecuting_entryOf, if_pos (Option.isSome_iff_ne_none.2 hexists)] at hadd
    exact addTag_refused h hbytes hp hadd
  · rw [if_neg (hyes hallowed), startExecuting_entryOf, hnew, if_neg (by simp), startExecuting_tags,
      if_pos hfull] at hadd
    exact addTag_refused h hbytes hp hadd
  · rw [addTag_enters h hbytes ht hp hallowed hnew hroom, addedEntry, firstFreshness_eq] <;> rfl
  · exact changeTag_refused h hbytes hp (hchange.trans (if_pos (hnot hallowed)))
  · rw [if_neg (hyes hallowed), startExecuting_entryOf, habsent] at hchange
    exact changeTag_refused h hbytes hp hchange
  · rw [changeTag_changes h hbytes ht hp hallowed hentry, changedEntry, changedFreshness_eq,
      (entryOf_mem hentry).2, firstFreshness_eq] <;> rfl

/-! ### REMOVE_TAG, CLEAR_TAGS and LIST_TAGS (R36, R38, R39) -/

section RemoveClearList

variable {s : State} {r : Request} {rest : List Request} {key : Key}

theorem removeTag_range (h : s.OffersTag r rest) {line : Byte} {number : Nat} (hnumber : number < 65536)
    (hout : 12 < line.toNat ∨ 4095 < number) (hp : r.payload = 0x22 :: line :: bigEndian 2 number) :
    exec .removeTag s = .next { s with link := s.link.replied r .range [] } := by
  rw [exec_removeTag]
  refine tagRow_refused h hp rfl (by simp; rfl) ?_
  have hkey := keyOf_eq_none hnumber hout []
  rw [List.append_nil] at hkey
  rw [ruleRemoveTag, hkey]

theorem listTags_range (h : s.OffersTag r rest) {line most : Byte} {number : Nat} (hnumber : number < 65536)
    (hout : 12 < line.toNat ∨ 4095 < number) (hp : r.payload = 0x24 :: line :: (bigEndian 2 number ++ [most])) :
    exec .listTags s = .next { s with link := s.link.replied r .range [] } := by
  rw [exec_listTags]
  refine tagRow_refused h hp rfl (by simp; rfl) ?_
  rw [ruleListTags, keyOf_eq_none hnumber hout]

theorem removeTag_eq (h : s.OffersTag r rest) (hp : r.payload = 0x22 :: keyBytes key) :
    exec .removeTag s = .next (
      if s.entryOf key = none then { s with link := s.link.replied r .absent [] }
      else { s with
        tags := s.tags.filter (fun e => e.key != key)
        link := s.link.replied r .ok (bigEndian 2 (s.tags.filter fun e => e.key != key).length) }) := by
  have hkey := keyOf_keyBytes key []
  rw [List.append_nil] at hkey
  have hlength : (0x22 :: keyBytes key).length = requestLength .removeTag := by simp [keyBytes]; rfl
  rw [exec_removeTag]
  cases hentry : s.entryOf key with
  | none =>
    rw [if_pos rfl]
    refine tagRow_refused h hp rfl hlength ?_
    rw [ruleRemoveTag, hkey]
    simp only [startExecuting_entryOf, hentry, Option.isSome_none, Bool.false_eq_true, if_false]
  | some e =>
    rw [if_neg nofun]
    have hrule : ruleRemoveTag (keyBytes key) (s.startExecuting r) =
        .ok { s.startExecuting r with tags := s.tags.filter fun e => e.key != key }
          (bigEndian 2 (s.tags.filter fun e => e.key != key).length) := by
      rw [ruleRemoveTag, hkey]
      simp only [startExecuting_entryOf, hentry, Option.isSome_some, if_true, startExecuting_tags]
    exact tagRow_ok h hp rfl hlength hrule rfl

theorem clearTags_range (h : s.OffersTag r rest) {selector : Byte} (hlow : 12 < selector.toNat)
    (hhigh : selector.toNat < 255) (hp : r.payload = [0x25, selector]) :
    exec .clearTags s = .next { s with link := s.link.replied r .range [] } := by
  have hselector : selectorOf selector = none := by
    rw [selectorOf, if_neg (Nat.ne_of_lt hhigh), keyLineOf_eq_none hlow]
    rfl
  rw [exec_clearTags]
  refine tagRow_refused h hp rfl rfl ?_
  rw [ruleClearTags, show byteAt [selector] 0 = selector from rfl, hselector]

/-- CLEAR_TAGS removes the entries that its selector names, and counts them. -/
theorem clearTags_clears (h : s.OffersTag r rest) {selector : Byte} {selects : Entry → Bool}
    (hselector : selectorOf selector = some selects) (hp : r.payload = [0x25, selector]) :
    exec .clearTags s = .next { s with
      tags := s.tags.filter (fun e => !selects e)
      link := s.link.replied r .ok (bigEndian 2 (s.tags.countP selects)) } := by
  have hrule : ruleClearTags [selector] (s.startExecuting r) =
      .ok { s.startExecuting r with tags := s.tags.filter fun e => !selects e }
        (bigEndian 2 (s.tags.countP selects)) := by
    rw [ruleClearTags, show byteAt [selector] 0 = selector from rfl, hselector]
    rfl
  have hnext := tagRow_ok h hp rfl rfl hrule rfl
  rw [exec_clearTags]
  exact hnext

theorem keyLineOf_number (line : KeyLine) : keyLineOf (BitVec.ofNat 8 line.number) = some line := by
  have hports : ∀ n : LineNo, keyLineOf (BitVec.ofNat 8 n.val) = some (.port n) := by decide
  cases line with
  | port n => exact hports n
  | any => rfl

theorem selectorOf_number (line : KeyLine) :
    selectorOf (BitVec.ofNat 8 line.number) = some fun e => e.key.line == line := by
  have hnumber : line.number ≤ 12 := by
    cases line with
    | port n => exact Nat.le_of_lt n.isLt
    | any => exact le_refl 12
  have hsmall : (BitVec.ofNat 8 line.number).toNat ≠ 255 := by
    rw [BitVec.toNat_ofNat]
    omega
  rw [selectorOf, if_neg hsmall, keyLineOf_number]
  rfl

/-- The results of LIST_TAGS (R38). -/
def listedKeys (s : State) (key : Key) (most : Nat) : List Byte :=
  let keys := (s.tags.map Entry.key).filter fun other => decide (key.rank ≤ other.rank)
  let listed := keys.take most
  BitVec.ofNat 8 listed.length :: (if most < keys.length then 1 else 0) ::
    ((listed.map keyBytes).flatten ++ List.replicate (36 - 3 * listed.length) 0)

theorem ruleListTags_eq {most : Nat} (hmost : most < 256) (s : State) :
    ruleListTags (keyBytes key ++ [BitVec.ofNat 8 most]) s =
      if 1 ≤ most ∧ most ≤ 12 then .ok s (listedKeys s key most) else .refuse .range := by
  have hbyte : (byteAt (keyBytes key ++ [BitVec.ofNat 8 most]) 3).toNat = most := by
    rw [show byteAt (keyBytes key ++ [BitVec.ofNat 8 most]) 3 = BitVec.ofNat 8 most from rfl, BitVec.toNat_ofNat]
    omega
  have hflag (b : Prop) [Decidable b] : yesNoByte (decide b) = if b then 1 else 0 := by
    by_cases hb : b <;> simp [yesNoByte, hb]
  rw [ruleListTags, keyOf_keyBytes]
  simp only [hbyte]
  by_cases hrange : 1 ≤ most ∧ most ≤ 12
  · rw [if_neg (by omega), if_pos hrange, hflag]
    rfl
  · rw [if_pos (by omega), if_neg hrange]

theorem listTags_eq (h : s.OffersTag r rest) {most : Nat} (hmost : most < 256)
    (hp : r.payload = 0x24 :: (keyBytes key ++ [BitVec.ofNat 8 most])) :
    exec .listTags s = .next { s with
      link := if 1 ≤ most ∧ most ≤ 12 then s.link.replied r .ok (listedKeys s key most)
        else s.link.replied r .range [] } := by
  have hlength : (0x24 :: (keyBytes key ++ [BitVec.ofNat 8 most])).length = requestLength .listTags := by
    simp [keyBytes]
    rfl
  have hrule := ruleListTags_eq (key := key) hmost (s.startExecuting r)
  rw [exec_listTags]
  by_cases hrange : 1 ≤ most ∧ most ≤ 12
  · rw [if_pos hrange] at hrule ⊢
    have hnext := tagRow_ok h hp rfl hlength hrule rfl
    exact hnext
  · rw [if_neg hrange] at hrule ⊢
    exact tagRow_refused h hp rfl hlength hrule

end RemoveClearList

/-- Settles O31: what each row reads, and what it removes or lists. -/
theorem removeClearListTags : Obligations.RemoveClearListTags := by
  refine fun s r rest key h => ⟨fun line number hnumber hout => ⟨removeTag_range h hnumber hout, fun most =>
    listTags_range h hnumber hout⟩, fun selector hlow hhigh => clearTags_range h hlow hhigh, removeTag_eq h,
    clearTags_clears h (selectorOf_number key.line), fun hp => ?all, fun most hmost => listTags_eq h hmost⟩
  case all =>
    rw [clearTags_clears h (selects := fun _ => true) rfl hp]
    simp

end Sys2Proof.Proofs
end

section
/-! PROOFS. Offers to the capture queues and notices (R63 to R66, R73, R155, R156), and SET_QUEUE (R75, R76): O33 and
O34. -/

namespace Sys2Proof.Proofs

-- One theorem after another: elaborating them all at once costs a thread and its stack for each.
set_option Elab.async false

open Sys2Proof.Machine Sys2Proof.Laws

/-! ### One queue (R63 to R66, R68) -/

section Offer

variable {q : CaptureQueue} {r : CaptureRecord}

/-- What an offer to a full queue does: one record is lost, the oldest waiting one only under KEEP_NEW. -/
theorem offer_full (hfull : q.depth ≤ q.records.length) :
    q.offer r = { q with
      offered := q.offered + 1, lostTotal := q.lostTotal + 1, pendingLoss := min 4294967295 (q.pendingLoss + 1)
      records := if q.policy = .keepNew ∧ q.inFlight < q.records.length then q.records.eraseIdx q.inFlight ++ [r]
        else q.records } := by
  cases hp : q.policy with
  | keepOld => rw [offer_keepOld q r hfull hp, if_neg (by simp), hp]
  | keepNew =>
    rcases Nat.lt_or_ge q.inFlight q.records.length with hw | hw
    · rw [offer_keepNew q r hfull hp hw, if_pos ⟨rfl, hw⟩, hp]
    · rw [offer_keepNew_inFlight q r hfull hp hw, if_neg fun h => absurd h.2 (Nat.not_lt.2 hw), hp]

/-- An offer leaves the records in flight in their places (R68). -/
theorem offer_keepsInFlight (h : q.Sound) : (q.offer r).records.take q.inFlight = q.records.take q.inFlight := by
  rcases Nat.lt_or_ge q.records.length q.depth with hroom | hfull
  · rw [offer_room q r hroom]
    exact List.take_append_of_le_length h.run
  · rw [offer_full hfull]
    dsimp only
    split
    next hwaiting =>
      rw [List.eraseIdx_eq_take_drop_succ, List.append_assoc]
      exact List.take_left' (by rw [List.length_take]; omega)
    next => rfl

theorem offer_armed (hroom : q.records.length < q.depth) :
    (q.offer r).armed = (q.armed && decide (q.records.length + 1 ≠ q.depth)) := by
  rw [offer_room q r hroom]
  cases harmed : q.armed <;> simp [CaptureQueue.aboutToFill, harmed, Bool.beq_eq_decide_eq]

end Offer

/-! ### Offers in a state (R63, R73, R156) -/

theorem offer_captured (s : State) (n : QueueNo) (r : CaptureRecord) :
    s.offer n r = { s with
      queues := (s.offer n r).queues
      reports := { s.reports with
        notices := (s.offer n r).reports.notices, noticeLoss := (s.offer n r).reports.noticeLoss
        streams := (s.offer n r).reports.streams } } := by
  obtain ⟨queues, notices, noticeLoss, streams, h⟩ := captured_offer s n r
  rw [h]

/-- Settles O33: an offer with room, and an offer to a full queue. -/
theorem queueOffer : Obligations.QueueOffer := by
  refine ⟨fun q r h => ⟨offer_sound r h, offer_depth q r, offer_policy q r, offer_inFlight q r, offer_offered q r,
    offer_acknowledged q r, offer_keepsInFlight h, fun hroom => ?room, fun hfull => ?full⟩, fun s n r => ?state,
    fun s x => ⟨queueNotice_room s x, queueNotice_full s x⟩⟩
  case room =>
    refine ⟨?_, ?_, ?_, offer_armed hroom⟩ <;> rw [offer_room q r hroom]
  case full =>
    rw [offer_full (Nat.le_of_eq hfull.symm)]
    exact ⟨rfl, rfl, rfl, rfl⟩
  case state =>
    refine ⟨offer_captured s n r, offer_queue s n r, fun m hm => ⟨?_, ?_⟩, ?_, fun hheld hloss =>
      noticed_offer ⟨hheld, hloss⟩ n r⟩
    · rw [offer_queue_eq, if_neg hm]
    · rw [offer_stream_eq, if_neg hm]
    · rw [offer_stream_eq, if_pos rfl, offer_queue]
      rfl

/-! ### SET_QUEUE (R75, R76) -/

section SetQueue

variable {s : State} {r : Request} {rest : List Request} {number policy : Byte} {depth : Nat}

theorem exec_setQueue (s : State) : exec .setQueue s = s.happen (State.carryOut .setQueue ruleSetQueue) := rfl

/-- The policy that its byte chooses (R173). -/
def chosenPolicy (policy : Byte) : QueuePolicy := if policy = 0 then .keepOld else .keepNew

theorem queuePolicyOf_chosen (h : policy.toNat ≤ 1) : queuePolicyOf policy = some (chosenPolicy policy) := by
  have hcases : policy = 0 ∨ policy = 1 := by
    rcases Nat.le_one_iff_eq_zero_or_eq_one.1 h with hzero | hone
    · exact .inl (BitVec.eq_of_toNat_eq hzero)
    · exact .inr (BitVec.eq_of_toNat_eq hone)
  rcases hcases with rfl | rfl <;> rfl

theorem queuePolicyOf_eq_none (h : 1 < policy.toNat) : queuePolicyOf policy = none := by
  rw [queuePolicyOf]
  split
  next hzero => omega
  next hone => omega
  next => rfl

theorem setQueue_depth (hdepth : depth < 65536) : numberAt (number :: (bigEndian 2 depth ++ [policy])) 1 2 = depth :=
  numberAt_append [number] [policy] 2 depth hdepth

theorem setQueue_length : (0x30 :: number :: (bigEndian 2 depth ++ [policy])).length = requestLength .setQueue := by
  simp
  rfl

/-- What SET_QUEUE answers for a queue and a policy in range, in the order of R75. -/
theorem ruleSetQueue_eq (hdepth : depth < 65536) (hpolicy : policy.toNat ≤ 1) (n : QueueNo) (s : State) :
    ruleSetQueue (BitVec.ofNat 8 n.val :: (bigEndian 2 depth ++ [policy])) s =
      if depth = 65535 then
        .ok (s.withQueue n { s.queue n with policy := chosenPolicy policy }) (bigEndian 2 0 ++ bigEndian 2 s.freePool)
      else if 8192 < depth then .refuse .range
      else if n = mergedQueue then .refuse .range
      else if s.queueInUse n then .refuse .state
      else if 0 < (s.queue n).inFlight then .refuse .state
      else if 8192 < s.otherDepths n + depth then .refuse .full
      else .ok (s.withQueue n ((s.queue n).resize depth (chosenPolicy policy)))
        (bigEndian 2 (s.queue n).records.length ++
          bigEndian 2 (s.withQueue n ((s.queue n).resize depth (chosenPolicy policy))).freePool) := by
  rw [ruleSetQueue, setQueue_depth hdepth,
    show byteAt (BitVec.ofNat 8 n.val :: (bigEndian 2 depth ++ [policy])) 0 = BitVec.ofNat 8 n.val from rfl,
    show byteAt (BitVec.ofNat 8 n.val :: (bigEndian 2 depth ++ [policy])) 3 = policy from rfl, queueOf_ofNat,
    queuePolicyOf_chosen hpolicy] <;> rfl

theorem setQueue_refused (h : s.Offers r rest) (hp : r.payload = 0x30 :: number :: (bigEndian 2 depth ++ [policy]))
    {status : Status}
    (hrule : ruleSetQueue (number :: (bigEndian 2 depth ++ [policy])) (s.startExecuting r) = .refuse status) :
    exec .setQueue s = .next { s with link := s.link.replied r status [] } := by
  rw [exec_setQueue]
  exact row_refused h hp rfl setQueue_length rfl hrule

theorem setQueue_ok (h : s.Offers r rest) (hp : r.payload = 0x30 :: number :: (bigEndian 2 depth ++ [policy]))
    {n : QueueNo} {q : CaptureQueue} {results : List Byte}
    (hrule : ruleSetQueue (number :: (bigEndian 2 depth ++ [policy])) (s.startExecuting r) =
      .ok ((s.startExecuting r).withQueue n q) results) :
    exec .setQueue s = .next { s.withQueue n q with link := s.link.replied r .ok results } := by
  have hnext := row_ok h hp rfl setQueue_length rfl hrule rfl
  rw [exec_setQueue]
  exact hnext

/-- A queue number, a policy or a depth out of range, and a depth for the merged queue. -/
theorem ruleSetQueue_range (hdepth : depth < 65536)
    (hout : 12 < number.toNat ∨ 1 < policy.toNat ∨ 8192 < depth ∧ depth ≠ 65535) (s : State) :
    ruleSetQueue (number :: (bigEndian 2 depth ++ [policy])) s = .refuse .range := by
  rw [ruleSetQueue, setQueue_depth hdepth,
    show byteAt (number :: (bigEndian 2 depth ++ [policy])) 0 = number from rfl,
    show byteAt (number :: (bigEndian 2 depth ++ [policy])) 3 = policy from rfl]
  rcases hout with hnumber | hpolicy | ⟨hpool, hkeep⟩
  · rw [queueOf_eq_none hnumber]
  · rw [queuePolicyOf_eq_none hpolicy]
    cases queueOf number <;> rfl
  · simp only [if_neg hkeep, if_pos (show depth > Config.poolRecords from hpool)]
    cases queueOf number <;> cases queuePolicyOf policy <;> rfl

theorem queueInUse_castSucc (s : State) (line : LineNo) :
    s.queueInUse line.castSucc = true ↔ (s.port line).state = .running ∨ (s.port line).state = .stopping := by
  have hlt : line.castSucc.val < 12 := line.isLt
  rw [State.queueInUse, dif_pos hlt, Bool.or_eq_true, beq_iff_eq, beq_iff_eq]
  rfl

/-- The free pool after a line queue took a depth (R57). -/
theorem freePool_withQueue (s : State) (line : LineNo) (q : CaptureQueue) :
    (s.withQueue line.castSucc q).freePool = 8192 - (s.otherDepths line.castSucc + q.depth) := by
  have hothers : (s.withQueue line.castSucc q).otherDepths line.castSucc = s.otherDepths line.castSucc := by
    simp only [State.otherDepths]
    refine congrArg List.sum (List.map_congr_left fun m hm => ?_)
    rw [queue_withQueue_ne _ _ _ _ (by simpa using (List.mem_filter.1 hm).2)]
  have hsplit := depths_split (s.withQueue line.castSucc q) line
  rw [show lineQueue line = line.castSucc from rfl, hothers, queue_withQueue] at hsplit
  rw [State.freePool, hsplit, Nat.add_comm]
  rfl

/-- R76: a queue that held nothing in flight, after a depth change. -/
theorem resize_eq {q : CaptureQueue} (hflight : q.inFlight = 0) (depth : Nat) (policy : QueuePolicy) :
    q.resize depth policy = { q with
      depth
      policy
      records := []
      lostTotal := q.lostTotal + BitVec.ofNat 32 q.records.length
      pendingLoss := min 4294967295 (q.pendingLoss + q.records.length)
      armed := true } := by
  rw [CaptureQueue.resize, CaptureQueue.lose, ← hflight]
  rfl

theorem setQueue_line (h : s.Offers r rest) (hdepth : depth ≤ 8192) (hpolicy : policy.toNat ≤ 1) (line : LineNo)
    (hp : r.payload = 0x30 :: BitVec.ofNat 8 line.castSucc.val :: (bigEndian 2 depth ++ [policy])) :
    ((s.port line).state = .running ∨ (s.port line).state = .stopping ∨ 0 < (s.queue line.castSucc).inFlight →
      exec .setQueue s = .next { s with link := s.link.replied r .state [] }) ∧
    ((s.port line).state ≠ .running → (s.port line).state ≠ .stopping → (s.queue line.castSucc).inFlight = 0 →
      (8192 < s.otherDepths line.castSucc + depth →
        exec .setQueue s = .next { s with link := s.link.replied r .full [] }) ∧
      (s.otherDepths line.castSucc + depth ≤ 8192 →
        exec .setQueue s = .next { s.withQueue line.castSucc
            ((s.queue line.castSucc).resize depth (chosenPolicy policy)) with
          link := s.link.replied r .ok (bigEndian 2 (s.queue line.castSucc).records.length ++
            bigEndian 2 (8192 - (s.otherDepths line.castSucc + depth))) })) := by
  have hrule := ruleSetQueue_eq (depth := depth) (by omega) hpolicy line.castSucc (s.startExecuting r)
  rw [if_neg (by omega), if_neg (by omega),
    if_neg (show line.castSucc ≠ mergedQueue from (Fin.castSucc_lt_last line).ne)] at hrule
  have huse := queueInUse_castSucc (s.startExecuting r) line
  rw [startExecuting_port] at huse
  rw [freePool_withQueue] at hrule
  change ruleSetQueue _ _ = if _ then _ else if 0 < (s.queue line.castSucc).inFlight then _
    else if 8192 < s.otherDepths line.castSucc + depth then _ else .ok _ (_ ++ bigEndian 2
      (8192 - (s.otherDepths line.castSucc + depth))) at hrule
  refine ⟨fun hstate => setQueue_refused h hp ?_, fun hnotRunning hnotStopping hflight => ?_⟩
  · rw [hrule]
    by_cases hused : (s.startExecuting r).queueInUse line.castSucc = true
    · rw [if_pos hused]
    · rw [huse] at hused
      rw [if_neg (by rwa [huse]), if_pos (by tauto)]
  · rw [if_neg (by rw [huse]; tauto), if_neg (by omega)] at hrule
    refine ⟨fun hfull => setQueue_refused h hp (by rw [hrule, if_pos hfull]), fun hfits => ?_⟩
    rw [if_neg (Nat.not_lt.2 hfits)] at hrule
    exact setQueue_ok h hp hrule

end SetQueue

/-- Settles O34: the judgement of R75 in its order. -/
theorem setQueue : Obligations.SetQueue := by
  refine fun s r rest number policy depth h hdepth hp => ⟨fun hout =>
    setQueue_refused h hp (ruleSetQueue_range hdepth hout _), ?_⟩
  rintro n rfl hpolicy
  have hrule := ruleSetQueue_eq hdepth hpolicy n (s.startExecuting r)
  refine ⟨fun hkeep => ?keep, fun hpool hmerged => ?merged, ?line⟩
  case keep =>
    rw [if_pos hkeep] at hrule
    exact setQueue_ok h hp hrule
  case merged =>
    rw [if_neg (by omega), if_neg (by omega), if_pos (show n = mergedQueue from hmerged)] at hrule
    exact setQueue_refused h hp hrule
  case line =>
    rintro line hpool rfl
    obtain ⟨hstate, hjudged⟩ := setQueue_line h hpool hpolicy line hp
    refine ⟨hstate, fun hnotRunning hnotStopping hflight => ?_⟩
    rw [← resize_eq hflight]
    exact hjudged hnotRunning hnotStopping hflight

end Sys2Proof.Proofs
end

section
/-! PROOFS. CONFIGURE_LINE (R126, R127) and START_LINE (R128 to R130): O36 and O37. -/

namespace Sys2Proof.Proofs

-- One theorem after another: elaborating them all at once costs a thread and its stack for each.
set_option Elab.async false

open Sys2Proof.Machine Sys2Proof.Laws

/-! ### The codes of Table 11-5 and the bytes of a configuration -/

theorem roleByte_eq (role : Role) :
    roleByte role = match role with | .off => 0 | .receive => 1 | .transmit => 2 | .echo => 3 := by cases role <;> rfl

theorem rateByte_eq (rate : Rate) :
    rateByte rate = match rate with | .k12_5 => 0 | .k50 => 1 | .k100 => 2 | .k200 => 3 := by cases rate <;> rfl

theorem missRouteByte_eq (route : MissRoute) :
    missRouteByte route = match route with | .none => 0 | .line => 1 | .merged => 2 | .both => 3 := by
  cases route <;> rfl

theorem policyByte_eq (policy : TransmitPolicy) :
    policyByte policy = match policy with | .planFirst => 0 | .queueFirst => 1 := by cases policy <;> rfl

theorem lineStateByte_eq (state : LineState) :
    lineStateByte state =
      match state with | .off => 0 | .ready => 1 | .running => 2 | .stopping => 3 | .fault => 4 := by
  cases state <;> rfl

section ConfigureLine

variable {s : State} {r : Request} {rest : List Request} {line : Byte} {bytes : List Byte} {n : LineNo} {c : LineConfig}

theorem exec_configureLine (s : State) :
    exec .configureLine s = s.happen (State.carryOut .configureLine ruleConfigureLine) := rfl

theorem lineConfigOf_after (hbytes : bytes.length = 8) (c : LineConfig) :
    lineConfigOf (line :: bytes) 1 = some c ↔ c.Encoded bytes := by
  simpa using lineConfigOf_iff c bytes [line] [] hbytes

theorem lineConfigOf_none (hbytes : bytes.length = 8) (h : ∀ c, ¬ LineConfig.Encoded c bytes) :
    lineConfigOf (line :: bytes) 1 = none := by
  rw [Option.eq_none_iff_forall_ne_some]
  exact fun c hc => h c ((lineConfigOf_after hbytes c).1 hc)

theorem configureLine_length (hbytes : bytes.length = 8) :
    (0x10 :: line :: bytes).length = requestLength .configureLine := by
  simp only [List.length_cons, hbytes]
  rfl

theorem configureLine_range (h : s.Offers r rest) (hbytes : bytes.length = 8) (hp : r.payload = 0x10 :: line :: bytes)
    (hout : 11 < line.toNat ∨ ∀ c, ¬ LineConfig.Encoded c bytes) :
    exec .configureLine s = .next { s with link := s.link.replied r .range [] } := by
  rw [exec_configureLine]
  refine row_refused h hp rfl (configureLine_length hbytes) rfl ?_
  rw [ruleConfigureLine, show byteAt (line :: bytes) 0 = line from rfl]
  rcases hout with hline | hconfig
  · rw [lineOf_eq_none hline]
  · rw [lineConfigOf_none hbytes hconfig]
    cases lineOf line <;> rfl

theorem ruleConfigureLine_eq (hbytes : bytes.length = 8) (hc : c.Encoded bytes) (n : LineNo) (s : State) :
    ruleConfigureLine (BitVec.ofNat 8 n.val :: bytes) s =
      if (s.port n).state ≠ .off ∧ (s.port n).state ≠ .ready then .refuse .state
      else .ok (s.withPort n ((s.port n).configure c))
        [if c.role = .off then 0 else 1,
         if c.role = .receive ∨ c.role = .off then BitVec.ofNat 8 (s.port n).sendQueue.length else 0] := by
  have hstate : lineStateByte ((s.port n).configure c).state = if c.role = .off then 0 else 1 := by
    rw [Port.configure]
    dsimp only
    split <;> rfl
  have hdiscarded : BitVec.ofNat 8 ((s.port n).sendQueue.length - ((s.port n).configure c).sendQueue.length) =
      if c.role = .receive ∨ c.role = .off then BitVec.ofNat 8 (s.port n).sendQueue.length else 0 := by
    rw [Port.configure]
    dsimp only
    split
    · rfl
    · exact congrArg (BitVec.ofNat 8) (Nat.sub_self _)
  rw [ruleConfigureLine, show byteAt (BitVec.ofNat 8 n.val :: bytes) 0 = BitVec.ofNat 8 n.val from rfl, lineOf_ofNat,
    (lineConfigOf_after hbytes c).2 hc]
  simp only [hstate, hdiscarded]

theorem configureLine_configures (h : s.Offers r rest) (hbytes : bytes.length = 8) (hc : c.Encoded bytes)
    (hp : r.payload = 0x10 :: BitVec.ofNat 8 n.val :: bytes)
    (hstate : (s.port n).state = .off ∨ (s.port n).state = .ready) :
    exec .configureLine s = .next { s.withPort n ((s.port n).configure c) with
      link := s.link.replied r .ok
        [if c.role = .off then 0 else 1,
         if c.role = .receive ∨ c.role = .off then BitVec.ofNat 8 (s.port n).sendQueue.length else 0] } := by
  have hrule := ruleConfigureLine_eq hbytes hc n (s.startExecuting r)
  rw [startExecuting_port, if_neg (by tauto)] at hrule
  have hnext := row_ok h hp rfl (configureLine_length hbytes) rfl hrule rfl
  rw [exec_configureLine]
  exact hnext

theorem configureLine_state (h : s.Offers r rest) (hbytes : bytes.length = 8) (hc : c.Encoded bytes)
    (hp : r.payload = 0x10 :: BitVec.ofNat 8 n.val :: bytes)
    (hstate : (s.port n).state = .running ∨ (s.port n).state = .stopping ∨ (s.port n).state = .fault) :
    exec .configureLine s = .next { s with link := s.link.replied r .state [] } := by
  have hrule := ruleConfigureLine_eq hbytes hc n (s.startExecuting r)
  rw [startExecuting_port, if_pos (by rcases hstate with hs | hs | hs <;> simp [hs])] at hrule
  rw [exec_configureLine]
  exact row_refused h hp rfl (configureLine_length hbytes) rfl hrule

end ConfigureLine

/-- Settles O36: the codes, and the rule's three answers. -/
theorem configureLine : Obligations.ConfigureLine := by
  refine ⟨roleByte_eq, rateByte_eq, missRouteByte_eq, policyByte_eq, fun b => rfl,
    fun s r rest line bytes h hbytes hp => ⟨configureLine_range h hbytes hp, ?_⟩⟩
  rintro n c rfl hc
  exact ⟨configureLine_configures h hbytes hc hp, configureLine_state h hbytes hc hp⟩

/-! ### What the Tag Table does leaves the host link out (R148) -/

theorem startExecuting_linked (s : State) (r : Request) :
    s.startExecuting r = linked (s.startExecuting r).link s := rfl

theorem queueNotice_linked (s : State) (link : HostLink) (x : Notice) :
    (linked link s).queueNotice x = linked link (s.queueNotice x) := by
  rw [State.queueNotice, State.queueNotice, show (linked link s).reports = s.reports from rfl]
  split <;> rfl

theorem queueNoticeIf_linked (s : State) (link : HostLink) (b : Bool) (x : Notice) :
    (linked link s).queueNoticeIf b x = linked link (s.queueNoticeIf b x) := by
  cases b with
  | true => exact queueNotice_linked s link x
  | false => rfl

theorem offer_linked (s : State) (link : HostLink) (n : QueueNo) (record : CaptureRecord) :
    (linked link s).offer n record = linked link (s.offer n record) := by
  rw [State.offer, State.offer, ← queueNoticeIf_linked]
  rfl

theorem offerStartMarks_linked (s : State) (link : HostLink) (n : LineNo) (stamps : List Stamp) :
    (linked link s).offerStartMarks n stamps = linked link (s.offerStartMarks n stamps) := by
  rw [offerStartMarks_eq, offerStartMarks_eq]
  induction stamps generalizing s with
  | nil => rfl
  | cons stamp rest ih =>
    rw [List.foldl_cons, List.foldl_cons, offer_linked]
    exact ih _

theorem placeStartMark_linked (s : State) (link : HostLink) (n : LineNo) (stamp : Stamp) :
    (linked link s).placeStartMark n stamp = linked link (s.placeStartMark n stamp) := by
  have hintake : (linked link s).intake = s.intake := rfl
  have hbusy : (linked link s).busy = s.busy := rfl
  simp only [State.placeStartMark, hintake, hbusy, offerStartMarks_linked]
  split
  next => rfl
  next busy _ =>
    split
    · rfl
    · rfl
  next => rfl

theorem expire_linked (s : State) (link : HostLink) (e : Entry) :
    (linked link s).expire e = linked link (s.expire e) := by
  cases hfresh : e.freshness with
  | none => simp only [State.expire, hfresh]
  | idle => simp only [State.expire, hfresh]
  | stale since => simp only [State.expire, hfresh]
  | unseen t =>
    simp only [State.expire, hfresh, ← queueNotice_linked]
    rfl
  | fresh t =>
    simp only [State.expire, hfresh, ← queueNotice_linked]
    rfl

theorem expireIfBefore_linked (line : LineNo) (moment : Nat) (s : State) (link : HostLink) (e : Entry) :
    expireIfBefore line moment (linked link s) e = linked link (expireIfBefore line moment s e) := by
  rw [expireIfBefore, expireIfBefore]
  split
  · split
    · exact expire_linked s link e
    · rfl
  · rfl

theorem expireBefore_linked (line : LineNo) (moment : Nat) (s : State) (link : HostLink) :
    (linked link s).expireBefore line moment = linked link (s.expireBefore line moment) := by
  rw [expireBefore_eq, expireBefore_eq, show (linked link s).tags = s.tags from rfl]
  generalize s.tags = entries
  induction entries generalizing s with
  | nil => rfl
  | cons e rest ih =>
    rw [List.foldl_cons, List.foldl_cons, expireIfBefore_linked]
    exact ih _

theorem applyLineChange_linked (s : State) (link : HostLink) (change : LineChange) :
    (linked link s).applyLineChange change = linked link (s.applyLineChange change) := by
  cases change with
  | started line monitored t0 => rfl
  | stopped line moment =>
    rw [State.applyLineChange, State.applyLineChange, expireBefore_linked]
    rfl

theorem lineChanged_linked (s : State) (link : HostLink) (change : LineChange) :
    (linked link s).lineChanged change = linked link (s.lineChanged change) := by
  rw [State.lineChanged, State.lineChanged, show (linked link s).busy = s.busy from rfl, applyLineChange_linked]
  split <;> rfl

theorem startLine_linked (s : State) (link : HostLink) (n : LineNo) :
    (linked link s).startLine n = linked link (s.startLine n) := by
  simp only [State.startLine, show (linked link s).port n = s.port n from rfl,
    show (linked link s).now = s.now from rfl, show (linked link s).time = s.time from rfl]
  cases hreceive : (s.port n).config.role == Role.receive with
  | true =>
    simp only [if_true]
    rw [show ∀ f, (linked link s).mapPort n f = linked link (s.mapPort n f) from fun f => rfl, lineChanged_linked,
      placeStartMark_linked]
  | false =>
    simp only [Bool.false_eq_true, if_false]
    rw [show ∀ f, (linked link s).mapPort n f = linked link (s.mapPort n f) from fun f => rfl,
      show ∀ t : State, (linked link t).startSlots n = linked link (t.startSlots n) from fun t => rfl,
      lineChanged_linked]

/-! ### A port that starts (R128, R5, R6, R13, R115) -/

theorem startedPort_receive {p : Port} (h : p.config.role = .receive) (t0 : Nat) :
    startedPort t0 p = { p with state := .running, t0 := some t0, receiver := .idle p.pair.isSome } := by
  simp [startedPort, Port.activate, Port.receiverActive, Port.driverActive, h]

theorem startedPort_transmitting {p : Port} (h : p.config.role = .transmit ∨ p.config.role = .echo) (t0 : Nat) :
    startedPort t0 p = { p with
      state := .running
      t0 := some t0
      transmitter := .free
      receiver := if p.config.role = .echo then .idle p.pair.isSome else p.receiver
      comparator := if p.config.role = .echo then .clear else p.comparator } := by
  rcases h with h | h <;> simp [startedPort, Port.activate, Port.receiverActive, Port.driverActive, h]

/-! ### The entries and the slots of a line that starts (R22, R43, R96) -/

/-- The exact entries of a line that has started (R22, R43). -/
def startEntries (n : LineNo) (receive : Bool) (t0 : Nat) (tags : List Entry) : List Entry :=
  tags.map fun e =>
    if e.key.line = .port n then
      { e with
        firstDue := true
        freshness :=
          match e.freshness, e.settings.deadline with
          | .idle, some ms => if receive then .unseen (t0 + ms * 1000) else .idle
          | other, _ => other }
    else e

/-- The entries of a line that starts are told at once, or after the work of the Tag Table (R43). -/
theorem lineChanged_started (s : State) (n : LineNo) (receive : Bool) (t0 : Nat) :
    s.lineChanged (.started n receive t0) =
      if s.busy.isSome then { s with lineChanges := s.lineChanges ++ [.started n receive t0] }
      else { s with tags := startEntries n receive t0 s.tags } := by
  rw [State.lineChanged, applyLineChange_started]
  rfl

/-- A slot that starts with its line comes due at its phase (R96). -/
theorem gridPoint_start (t0 : Nat) (t : SlotSettings) : gridPoint t0 t t0 = t0 + t.phase * 100 := by
  have hnone : (t0 - (t0 + t.phase * 100) + (t.period * 100 - 1)) / (t.period * 100) = 0 := by
    rw [Nat.div_eq_zero_iff]
    omega
  rw [gridPoint]
  simp only [hnone]
  omega

/-- The slots of a line that starts join the grid of its T0 (R96). -/
theorem startSlots_started {s : State} {n : LineNo}
    (hrole : (s.port n).config.role = .transmit ∨ (s.port n).config.role = .echo) :
    (s.withPort n (startedPort s.time.runClock (s.port n))).startSlots n =
      { s.withPort n (startedPort s.time.runClock (s.port n)) with
        plan := s.plan.map (fun slot =>
          if slot.line = n then
            { slot with nextDue :=
                if slot.settings.enabled then some (s.time.runClock + slot.settings.phase * 100) else none }
          else slot) } := by
  have hslots : ∀ slot ∈ s.plan, (if slot.line = n then { slot with nextDue :=
        (s.withPort n (startedPort s.time.runClock (s.port n))).joinGrid slot.line slot.settings } else slot) =
      if slot.line = n then
        { slot with nextDue :=
            if slot.settings.enabled then some (s.time.runClock + slot.settings.phase * 100) else none }
      else slot := fun slot _ => by
    by_cases hline : slot.line = n
    · rw [if_pos hline, if_pos hline, joinGrid_eq, hline, port_withPort, startedPort_transmitting hrole]
      cases henabled : slot.settings.enabled with
      | true =>
        rw [if_pos ⟨rfl, rfl, hrole⟩, if_pos rfl, Option.map_some, withPort_time, gridPoint_start]
      | false => rw [if_neg (by simp), if_neg (by simp)]
    · rw [if_neg hline, if_neg hline]
  rw [State.startSlots, withPort_plan, List.map_congr_left hslots]

/-! ### Where the LINE_START MARK goes (R62, R129) -/

theorem modify_append_cons {α : Type} (f : α → α) (earlier later : List α) (a : α) :
    (earlier ++ a :: later).modify earlier.length f = earlier ++ f a :: later := by
  induction earlier with
  | nil => rfl
  | cons b rest ih => exact congrArg (b :: ·) ih

section Mark

variable {s : State} {n : LineNo} {stamp : Stamp}

theorem findIdx_none {intake : List Item} (h : ∀ item ∈ intake, item.line ≠ n) :
    (intake.reverse.findIdx? fun item => item.line == n) = none := by
  rw [List.findIdx?_eq_none_iff]
  exact fun item hitem => beq_false_of_ne (h item (List.mem_reverse.1 hitem))

theorem findIdx_newest {earlier later : List Item} {item : Item} (hline : item.line = n)
    (hlater : ∀ other ∈ later, other.line ≠ n) :
    ((earlier ++ item :: later).reverse.findIdx? fun item => item.line == n) = some later.length := by
  have hnone : (later.reverse.findIdx? fun item => item.line == n) = none := findIdx_none hlater
  rw [List.reverse_append, List.reverse_cons, List.append_assoc, List.findIdx?_append, hnone]
  simp [List.findIdx?_cons, hline]

/-- The MARK of a start is offered to the line's queue where no item of the line is held or worked on. -/
theorem placeStartMark_offers (hintake : ∀ item ∈ s.intake, item.line ≠ n)
    (hbusy : ∀ b, s.busy = some b → b.item.line ≠ n) :
    s.placeStartMark n stamp =
      s.offer n.castSucc { body := .mark .lineStart, line := n.castSucc, bits := 0, stamp } := by
  cases hb : s.busy with
  | none =>
    simp only [State.placeStartMark, findIdx_none hintake, hb]
    rfl
  | some b =>
    simp only [State.placeStartMark, findIdx_none hintake, hb, if_neg (hbusy b hb)]
    rfl

/-- It is attached to the newest item of the line in the intake. -/
theorem placeStartMark_intake {earlier later : List Item} {item : Item} (hintake : s.intake = earlier ++ item :: later)
    (hline : item.line = n) (hlater : ∀ other ∈ later, other.line ≠ n) :
    s.placeStartMark n stamp =
      { s with intake := earlier ++ { item with marks := item.marks ++ [stamp] } :: later } := by
  have hplace : (earlier ++ item :: later).length - 1 - later.length = earlier.length := by
    simp only [List.length_append, List.length_cons]
    omega
  simp only [State.placeStartMark, hintake, findIdx_newest hline hlater, hplace]
  rw [modify_append_cons]

/-- Else it is attached to the item that the Tag Table works on. -/
theorem placeStartMark_busy {b : Busy} (hintake : ∀ item ∈ s.intake, item.line ≠ n) (hbusy : s.busy = some b)
    (hline : b.item.line = n) :
    s.placeStartMark n stamp =
      { s with busy := some { b with item := { b.item with marks := b.item.marks ++ [stamp] } } } := by
  simp only [State.placeStartMark, findIdx_none hintake, hbusy, if_pos hline]

end Mark

/-! ### START_LINE (R128) -/

section StartLine

variable {s : State} {r : Request} {rest : List Request} {n : LineNo}

theorem exec_startLine (s : State) : exec .startLine s = s.happen (State.carryOut .startLine ruleStartLine) := rfl

theorem startLine_range (h : s.Offers r rest) {number : Byte} (hout : 11 < number.toNat)
    (hp : r.payload = [0x11, number]) :
    exec .startLine s = .next { s with link := s.link.replied r .range [] } := by
  rw [exec_startLine]
  refine row_refused h hp rfl rfl rfl ?_
  rw [ruleStartLine, show byteAt [number] 0 = number from rfl, lineOf_eq_none hout]

theorem ruleStartLine_eq (n : LineNo) (s : State) :
    ruleStartLine [BitVec.ofNat 8 n.val] s =
      if (s.port n).state ≠ .ready then .refuse .state
      else .ok (s.startLine n) (bigEndian 8 s.time.runClock ++ bigEndian 8 s.time.lineTime ++ [s.time.epoch]) := by
  rw [ruleStartLine, show byteAt [BitVec.ofNat 8 n.val] 0 = BitVec.ofNat 8 n.val from rfl, lineOf_ofNat]

theorem startLine_state (h : s.Offers r rest) (hp : r.payload = [0x11, BitVec.ofNat 8 n.val])
    (hstate : (s.port n).state ≠ .ready) :
    exec .startLine s = .next { s with link := s.link.replied r .state [] } := by
  have hrule := ruleStartLine_eq n (s.startExecuting r)
  rw [startExecuting_port, if_pos hstate] at hrule
  rw [exec_startLine]
  exact row_refused h hp rfl rfl rfl hrule

/-- The reply of a START_LINE that is accepted: T0 and the stamp. -/
def startedReply (s : State) (r : Request) : HostLink :=
  s.link.replied r .ok (bigEndian 8 s.time.runClock ++ bigEndian 8 s.time.lineTime ++ [s.time.epoch])

theorem startLine_ready (h : s.Offers r rest) (hp : r.payload = [0x11, BitVec.ofNat 8 n.val])
    (hstate : (s.port n).state = .ready) :
    exec .startLine s = .next (linked (startedReply s r) (s.startLine n)) := by
  have hrule := ruleStartLine_eq n (s.startExecuting r)
  rw [startExecuting_port, if_neg (fun hne => hne hstate), startExecuting_time] at hrule
  have hlinked : (s.startExecuting r).startLine n = linked (s.startExecuting r).link (s.startLine n) :=
    (congrArg (State.startLine n) (startExecuting_linked s r)).trans (startLine_linked s _ n)
  rw [hlinked] at hrule
  have hnext := row_ok h hp rfl rfl rfl hrule rfl
  rw [exec_startLine]
  exact hnext

/-- A RECEIVE line that starts, before its MARK is placed. -/
def receiving (s : State) (n : LineNo) : State :=
  (s.withPort n (startedPort s.time.runClock (s.port n))).lineChanged (.started n true s.time.runClock)

theorem startLine_receive (hrole : (s.port n).config.role = .receive) :
    s.startLine n = (receiving s n).placeStartMark n s.now := by
  rw [State.startLine]
  simp only [hrole, beq_self_eq_true, if_true]
  rfl

theorem startLine_transmitting (hrole : (s.port n).config.role = .transmit ∨ (s.port n).config.role = .echo) :
    s.startLine n = ((s.withPort n (startedPort s.time.runClock (s.port n))).startSlots n).lineChanged
      (.started n false s.time.runClock) := by
  have hnot : ((s.port n).config.role == Role.receive) = false := by
    rcases hrole with hrole | hrole <;> rw [hrole] <;> rfl
  rw [State.startLine]
  simp only [hnot, Bool.false_eq_true, if_false]
  rfl

theorem receiving_intake (s : State) (n : LineNo) : (receiving s n).intake = s.intake := by
  rw [receiving, lineChanged_started]
  split <;> rfl

theorem receiving_busy (s : State) (n : LineNo) : (receiving s n).busy = s.busy := by
  rw [receiving, lineChanged_started]
  split <;> rfl

end StartLine

/-- Settles O37: a RECEIVE line by where its MARK goes, a transmitting line by its slots. -/
theorem startLine : Obligations.StartLine := by
  refine fun s r rest h => ⟨fun number hout hp => startLine_range h hout hp, fun n hp =>
    ⟨startLine_state h hp, fun hready hrole => ?receive, fun hready hrole => ?transmitting⟩⟩
  case receive =>
    have hstarted : receiving s n = if s.busy.isSome then
        { s.withPort n { s.port n with
            state := .running, t0 := some s.time.runClock, receiver := .idle (s.port n).pair.isSome } with
          lineChanges := s.lineChanges ++ [.started n true s.time.runClock] }
        else { s.withPort n { s.port n with
            state := .running, t0 := some s.time.runClock, receiver := .idle (s.port n).pair.isSome } with
          tags := startEntries n true s.time.runClock s.tags } := by
      rw [receiving, lineChanged_started, startedPort_receive hrole]
      rfl
    have hexec := startLine_ready h hp hready
    rw [startLine_receive hrole] at hexec
    refine ⟨fun hintake hbusy => ?_, fun earlier item later hintake hline hlater => ?_,
      fun b hintake hbusy hline => ?_⟩
    · rw [hexec, placeStartMark_offers (by rwa [receiving_intake]) (by rwa [receiving_busy]), hstarted]
      rfl
    · rw [hexec, placeStartMark_intake (by rwa [receiving_intake]) hline hlater, hstarted]
      rfl
    · rw [hexec, placeStartMark_busy (by rwa [receiving_intake]) (by rwa [receiving_busy]) hline, hstarted]
      rfl
  case transmitting =>
    rw [startLine_ready h hp hready, startLine_transmitting hrole, startSlots_started hrole, lineChanged_started,
      startedPort_transmitting hrole]
    cases hbusy : s.busy with
    | none =>
      simp only [withPort_busy, hbusy, Option.isSome_none, Bool.false_eq_true, if_false]
      rfl
    | some b =>
      simp only [withPort_busy, hbusy, Option.isSome_some, if_true]
      rfl

end Sys2Proof.Proofs
end

section
/-! PROOFS. STOP_LINE (R131 to R133), READ_LINE (R135) and CLEAR_FAULT (R123): O38 and O39. -/

namespace Sys2Proof.Proofs

-- One theorem after another: elaborating them all at once costs a thread and its stack for each.
set_option Elab.async false

open Sys2Proof.Machine Sys2Proof.Laws

/-! ### What STOP_LINE answers (R131 to R133) -/

section StopLine

variable {s : State} {r : Request} {rest : List Request} {n : LineNo} {mode : StopMode}

theorem exec_stopLine (s : State) : exec .stopLine s = s.happen (State.carryOut .stopLine ruleStopLine) := rfl

/-- The byte of a stop mode (Table 11-5). -/
def stopModeByte (mode : StopMode) : Byte := if mode = .drain then 0 else 1

theorem stopModeOf_byte (mode : StopMode) : stopModeOf (stopModeByte mode) = some mode := by cases mode <;> rfl

theorem stopModeOf_eq_none {b : Byte} (h : 1 < b.toNat) : stopModeOf b = none := by
  rw [stopModeOf]
  split
  next hzero => omega
  next hone => omega
  next => rfl

theorem stopLine_range (h : s.Offers r rest) {number mode : Byte} (hout : 11 < number.toNat ∨ 1 < mode.toNat)
    (hp : r.payload = [0x12, number, mode]) :
    exec .stopLine s = .next { s with link := s.link.replied r .range [] } := by
  rw [exec_stopLine]
  refine row_refused h hp rfl rfl rfl ?_
  rw [ruleStopLine, show byteAt [number, mode] 0 = number from rfl, show byteAt [number, mode] 1 = mode from rfl]
  rcases hout with hnumber | hmode
  · rw [lineOf_eq_none hnumber]
  · rw [stopModeOf_eq_none hmode]
    cases lineOf number <;> rfl

/-- What STOP_LINE answers, by the state of the line (R131 to R133). -/
def stopAnswer (s : State) (n : LineNo) (mode : StopMode) : Answer :=
  match (s.port n).state with
  | .fault | .stopping => .refuse .state
  | .off | .ready => .ok s [lineStateByte (s.port n).state, 0]
  | .running =>
    if (s.port n).config.role = .receive then .ok (s.stopReceiving n) [1, 0]
    else if ((s.beginStop n mode).port n).stopCanEnd then
      .ok ((s.beginStop n mode).withPort n { ((s.beginStop n mode).port n).release with state := .ready, stop := none })
        [1, BitVec.ofNat 8 ((s.port n).sendQueue.length - ((s.beginStop n mode).port n).sendQueue.length)]
    else .holdForStop (s.beginStop n mode) n

theorem ruleStopLine_eq (n : LineNo) (mode : StopMode) (s : State) :
    ruleStopLine [BitVec.ofNat 8 n.val, stopModeByte mode] s = stopAnswer s n mode := by
  rw [ruleStopLine, show byteAt [BitVec.ofNat 8 n.val, stopModeByte mode] 0 = BitVec.ofNat 8 n.val from rfl,
    show byteAt [BitVec.ofNat 8 n.val, stopModeByte mode] 1 = stopModeByte mode from rfl, lineOf_ofNat,
    stopModeOf_byte]
  cases hstate : (s.port n).state <;> simp only [stopAnswer, hstate] <;> rfl

section Payload

variable (h : s.Offers r rest) (hp : r.payload = [0x12, BitVec.ofNat 8 n.val, stopModeByte mode])

include h hp

theorem stopLine_refused {status : Status} (hrule : stopAnswer (s.startExecuting r) n mode = .refuse status) :
    exec .stopLine s = .next { s with link := s.link.replied r status [] } := by
  rw [exec_stopLine]
  exact row_refused h hp rfl rfl rfl ((ruleStopLine_eq n mode _).trans hrule)

theorem stopLine_ok {t : State} {results : List Byte}
    (hrule : stopAnswer (s.startExecuting r) n mode = .ok t results) (hlink : t.link = (s.startExecuting r).link) :
    exec .stopLine s = .next { t with link := s.link.replied r .ok results } := by
  rw [exec_stopLine]
  exact row_ok h hp rfl rfl rfl ((ruleStopLine_eq n mode _).trans hrule) hlink

/-- A stop that does not end at once holds the executor (R134). -/
theorem stopLine_holds {t : State} (hrule : stopAnswer (s.startExecuting r) n mode = .holdForStop t n)
    (hlink : t.link = (s.startExecuting r).link) :
    exec .stopLine s = .next { t with
      link := { s.link with requests := rest, executing := some ⟨r, .stop n⟩ } } := by
  have hcommand : requestCommand r.payload = .stopLine := by rw [hp]; rfl
  have hlength : r.payload.length = requestLength .stopLine := by rw [hp]; rfl
  have hfields : r.payload.tail = [BitVec.ofNat 8 n.val, stopModeByte mode] := by rw [hp]; rfl
  rw [exec_stopLine, happen_running _ h.running, carryOut_rule h _ hcommand hlength rfl, hfields, ruleStopLine_eq,
    hrule, State.conclude, hlink, startExecuting_link h]

/-! ### A RECEIVE line (R131, R44) -/

omit h hp in
theorem stopReceiving_linked (s : State) (link : HostLink) (n : LineNo) :
    (linked link s).stopReceiving n = linked link (s.stopReceiving n) := by
  rw [State.stopReceiving, State.stopReceiving, ← lineChanged_linked]
  rfl

theorem stopLine_receive (hstate : (s.port n).state = .running) (hrole : (s.port n).config.role = .receive) :
    exec .stopLine s = .next (linked (s.link.replied r .ok [1, 0]) (s.stopReceiving n)) := by
  have hlinked : (s.startExecuting r).stopReceiving n = linked (s.startExecuting r).link (s.stopReceiving n) :=
    (congrArg (State.stopReceiving n) (startExecuting_linked s r)).trans (stopReceiving_linked s _ n)
  have hrule : stopAnswer (s.startExecuting r) n mode =
      .ok (linked (s.startExecuting r).link (s.stopReceiving n)) [1, 0] := by
    rw [stopAnswer]
    simp only [startExecuting_port, hstate, hrole, if_true, hlinked]
  have hnext := stopLine_ok h hp hrule rfl
  exact hnext

/-! ### A transmitting line (R132, R133) -/

omit h hp in
/-- The port of a transmitting line that enters STOPPING (R132). -/
theorem beginStop_port (s : State) (n : LineNo) (mode : StopMode) :
    (s.beginStop n mode).port n = { s.port n with
      state := .stopping
      sendQueue := if mode = .discard then [] else (s.port n).sendQueue
      stop := some ⟨mode, if mode = .discard then (s.port n).sendQueue.length else 0⟩ } := by
  rw [State.beginStop, stopSlots_port, port_mapPort]

omit h hp in
theorem stopCanEnd_iff (s : State) (n : LineNo) (mode : StopMode) :
    ((s.beginStop n mode).port n).stopCanEnd = true ↔
      (s.port n).transmitter = .free ∧ (if mode = .discard then [] else (s.port n).sendQueue) = [] := by
  rw [beginStop_port]
  cases mode with
  | drain => simp [Port.stopCanEnd]
  | discard => simp [Port.stopCanEnd]

theorem stopLine_drains (hstate : (s.port n).state = .running)
    (hrole : (s.port n).config.role = .transmit ∨ (s.port n).config.role = .echo)
    (hmore : (s.port n).transmitter ≠ .free ∨ (if mode = .discard then [] else (s.port n).sendQueue) ≠ []) :
    exec .stopLine s = .next { s.beginStop n mode with
      link := { s.link with requests := rest, executing := some ⟨r, .stop n⟩ } } := by
  have hcannot : ¬ (((s.startExecuting r).beginStop n mode).port n).stopCanEnd = true := by
    rw [stopCanEnd_iff, startExecuting_port]
    tauto
  have hnot : (s.port n).config.role ≠ .receive := by rcases hrole with hrole | hrole <;> simp [hrole]
  have hrule : stopAnswer (s.startExecuting r) n mode = .holdForStop ((s.startExecuting r).beginStop n mode) n := by
    rw [stopAnswer]
    simp only [startExecuting_port, hstate, if_neg hnot, if_neg hcannot]
  have hnext := stopLine_holds h hp hrule rfl
  exact hnext

theorem stopLine_ends (hstate : (s.port n).state = .running)
    (hrole : (s.port n).config.role = .transmit ∨ (s.port n).config.role = .echo)
    (hfree : (s.port n).transmitter = .free) (hempty : (if mode = .discard then [] else (s.port n).sendQueue) = []) :
    exec .stopLine s = .next { (s.beginStop n mode).withPort n
        { ((s.beginStop n mode).port n).release with state := .ready, stop := none } with
      link := s.link.replied r .ok
        [1, BitVec.ofNat 8 (if mode = .discard then (s.port n).sendQueue.length else 0)] } := by
  have hcan : (((s.startExecuting r).beginStop n mode).port n).stopCanEnd = true := by
    rw [stopCanEnd_iff, startExecuting_port]
    exact ⟨hfree, hempty⟩
  have hnot : (s.port n).config.role ≠ .receive := by rcases hrole with hrole | hrole <;> simp [hrole]
  have hdiscarded : (s.port n).sendQueue.length - ((s.startExecuting r).beginStop n mode |>.port n).sendQueue.length =
      if mode = .discard then (s.port n).sendQueue.length else 0 := by
    rw [beginStop_port, startExecuting_port]
    cases mode with
    | drain => simp
    | discard => simp
  have hrule : stopAnswer (s.startExecuting r) n mode =
      .ok (((s.startExecuting r).beginStop n mode).withPort n
          { (((s.startExecuting r).beginStop n mode).port n).release with state := .ready, stop := none })
        [1, BitVec.ofNat 8 (if mode = .discard then (s.port n).sendQueue.length else 0)] := by
    rw [stopAnswer]
    simp only [startExecuting_port, hstate, if_neg hnot, if_pos hcan, hdiscarded]
  have hnext := stopLine_ok h hp hrule rfl
  exact hnext

end Payload

/-- The port of a transmitting line whose stop ends in the happening of the request (R133). -/
theorem endedStop_eq (hfree : (s.port n).transmitter = .free)
    (hempty : (if mode = .discard then [] else (s.port n).sendQueue) = []) :
    { ((s.beginStop n mode).port n).release with state := .ready, stop := none } = { s.port n with
      state := .ready
      sendQueue := []
      stop := none
      receiver := .dormant
      transmitter := .dormant
      comparator := .inactive
      counters := { (s.port n).counters with
        cutWords := if (s.port n).receiver.midWord then (s.port n).counters.cutWords + 1
                    else (s.port n).counters.cutWords } } := by
  have hpair : ((s.beginStop n mode).port n).release.pair = (s.port n).pair := by
    rw [release_pair] <;> rw [beginStop_port]
    simp [hfree]
  rw [release_eq, hpair, beginStop_port]
  simp only [hempty]

theorem stopSlots_withPort (s : State) (n : LineNo) (p : Port) :
    (s.stopSlots n).withPort n p = (s.withPort n p).stopSlots n := rfl

/-- The port of a RECEIVE line that stops (R131). -/
theorem stoppedPort_eq {p : Port} (hdormant : p.transmitter = .dormant) :
    { p.release with state := .ready } = { p with
      state := .ready
      receiver := .dormant
      comparator := .inactive
      counters := { p.counters with
        cutWords := if p.receiver.midWord then p.counters.cutWords + 1 else p.counters.cutWords } } := by
  rw [release_eq, release_pair (by simp [hdormant]), ← hdormant]

/-- Where no expiry waits since before the moment, the stop takes none first (R46). -/
theorem expireBefore_current (line : LineNo) {moment : Nat}
    (h : ∀ e ∈ s.tags, ∀ t, e.freshness.expiry = some t → ¬ t < moment) : s.expireBefore line moment = s := by
  rw [expireBefore_eq]
  generalize s.tags = entries at h
  induction entries with
  | nil => rfl
  | cons e rest ih =>
    have hsame : expireIfBefore line moment s e = s := by
      rw [expireIfBefore]
      split
      next t ht => exact if_neg fun hdue => h e List.mem_cons_self t ht hdue.2
      next => rfl
    rw [List.foldl_cons, hsame]
    exact ih fun other hother => h other (List.mem_cons_of_mem e hother)

theorem stopEntries_eq (n : LineNo) (tags : List Entry) :
    stopEntries n tags = tags.map (fun e =>
      if e.key.line = .port n then { e with freshness := if e.freshness = .none then .none else .idle } else e) :=
  List.map_congr_left fun e _ => by rw [atStop_eq]

/-- The entries of a line that stops while the table is free and no expiry waits (R44). -/
theorem lineChanged_current (n : LineNo) (hfree : s.busy = none) (hcurrent : s.expiryWaits = false) :
    s.lineChanged (.stopped n s.time.runClock) = { s with tags := stopEntries n s.tags } := by
  have hexpired : s.expireBefore n s.time.runClock = s := by
    refine expireBefore_current n fun e he t ht hpast => ?_
    refine absurd hcurrent (Bool.not_eq_false _ ▸ List.any_eq_true.2 ⟨e, he, ?_⟩)
    simp [ht, hpast]
  rw [State.lineChanged, if_neg (by simp [hfree]), State.applyLineChange, hexpired]
  rfl

end StopLine

/-- Settles O38: the answers by line state, a RECEIVE line by the Tag Table's work, a transmitting line by whether it
has anything to drain. -/
theorem stopLine : Obligations.StopLine := by
  refine fun s r rest h => ⟨fun number mode hout hp => stopLine_range h hout hp, fun n mode hp => ?_⟩
  have hidle (state : LineState) (hstate : (s.port n).state = state) (hend : state = .off ∨ state = .ready) :
      exec .stopLine s = .next { s with link := s.link.replied r .ok [lineStateByte state, 0] } := by
    have hrule : stopAnswer (s.startExecuting r) n mode = .ok (s.startExecuting r) [lineStateByte state, 0] := by
      rw [stopAnswer]
      rcases hend with rfl | rfl <;> simp only [startExecuting_port, hstate]
    have hnext := stopLine_ok h hp hrule rfl
    exact hnext
  refine ⟨fun hstate => stopLine_refused (mode := mode) h hp ?fault, fun hstate => hidle .off hstate (.inl rfl),
    fun hstate => hidle .ready hstate (.inr rfl), fun hstate hrole hdormant => ?receive,
    fun hstate hrole => ⟨fun hmore => ?drains, fun hfree hempty => ?ends⟩⟩
  case fault =>
    rw [stopAnswer]
    simp only [startExecuting_port, hstate]
  case receive =>
    have hexec := stopLine_receive h hp hstate hrole
    rw [State.stopReceiving, State.mapPort, stoppedPort_eq hdormant] at hexec
    refine ⟨fun hfree hcurrent => ?_, fun hfree => ?_, fun hbusy => ?_⟩
    · rw [hexec, ← stopEntries_eq]
      exact congrArg (fun t => Host.Outcome.next (linked (s.link.replied r .ok [1, 0]) t))
        (lineChanged_current (s := s.withPort n _) n hfree hcurrent)
    · rw [hexec, State.lineChanged, if_neg (by simp [hfree])]
      rfl
    · rw [hexec, State.lineChanged, if_pos (by simpa [Option.isSome_iff_ne_none] using hbusy)]
      rfl
  case drains =>
    rw [stopLine_drains (mode := mode) h hp hstate hrole hmore]
    rfl
  case ends =>
    rw [stopLine_ends (mode := mode) h hp hstate hrole hfree hempty, endedStop_eq hfree hempty, State.beginStop,
      State.mapPort, stopSlots_withPort, withPort_withPort]
    rfl

/-! ### READ_LINE and CLEAR_FAULT (R135, R123) -/

section ReadLine

variable {s : State} {r : Request} {rest : List Request} {n : LineNo} {clear : Bool}

theorem exec_readLine (s : State) : exec .readLine s = s.happen (State.carryOut .readLine ruleReadLine) := rfl

theorem exec_clearFault (s : State) : exec .clearFault s = s.happen (State.carryOut .clearFault ruleClearFault) := rfl

/-- The results of READ_LINE, field by field (Table 11-4). -/
theorem lineResults_eq (p : Port) :
    lineResults p = [lineStateByte p.state] ++ lineConfigBytes p.config ++
      [yesNoByte p.t0.isSome] ++ bigEndian 8 (p.t0.getD 0) ++
      [BitVec.ofNat 8 p.sendQueue.length, BitVec.ofNat 8 p.consecutive] ++
      bigEndian 4 p.counters.wordsReceived.toNat ++ bigEndian 4 p.counters.checkErrors.toNat ++
      bigEndian 4 p.counters.lengthErrors.toNat ++ bigEndian 4 p.counters.codeErrors.toNat ++
      bigEndian 4 p.counters.cutWords.toNat ++ bigEndian 4 p.counters.intakeOverruns.toNat ++
      bigEndian 4 p.counters.wordsSent.toNat ++ bigEndian 4 p.counters.echoMismatches.toNat ++
      bigEndian 4 p.counters.foreignWords.toNat ++ bigEndian 4 p.counters.misses.toNat := by
  simp only [lineResults, presentField, lineCounterBytes, List.map_cons, List.map_nil, List.flatten_cons,
    List.flatten_nil, List.append_nil, List.append_assoc, List.cons_append, List.nil_append]

theorem readLine_range (h : s.Offers r rest) {number : Byte} (hout : 11 < number.toNat)
    (hp : r.payload = [0x13, number, yesNoByte clear]) :
    exec .readLine s = .next { s with link := s.link.replied r .range [] } := by
  rw [exec_readLine]
  refine row_refused h hp rfl rfl rfl ?_
  rw [ruleReadLine, show byteAt [number, yesNoByte clear] 0 = number from rfl, lineOf_eq_none hout]

theorem readLine_answers (h : s.Offers r rest) (hp : r.payload = [0x13, BitVec.ofNat 8 n.val, yesNoByte clear]) :
    exec .readLine s = .next
      { (if clear then s.withPort n { s.port n with counters := ⟨0, 0, 0, 0, 0, 0, 0, 0, 0, 0⟩ } else s) with
        link := s.link.replied r .ok (lineResults (s.port n)) } := by
  have hclear : yesNoOf (byteAt [BitVec.ofNat 8 n.val, yesNoByte clear] 1) = some clear := (yesNoOf_iff _ _).2 rfl
  have hrule : ruleReadLine [BitVec.ofNat 8 n.val, yesNoByte clear] (s.startExecuting r) =
      .ok (if clear then (s.startExecuting r).withPort n { s.port n with counters := ⟨0, 0, 0, 0, 0, 0, 0, 0, 0, 0⟩ }
        else s.startExecuting r) (lineResults (s.port n)) := by
    rw [ruleReadLine, show byteAt [BitVec.ofNat 8 n.val, yesNoByte clear] 0 = BitVec.ofNat 8 n.val from rfl,
      lineOf_ofNat, hclear]
    rfl
  rw [exec_readLine]
  cases clear with
  | true =>
    have hnext := row_ok h hp rfl rfl rfl hrule rfl
    exact hnext
  | false =>
    have hnext := row_ok h hp rfl rfl rfl hrule rfl
    exact hnext

theorem clearFault_range (h : s.Offers r rest) {number : Byte} (hout : 11 < number.toNat)
    (hp : r.payload = [0x14, number]) :
    exec .clearFault s = .next { s with link := s.link.replied r .range [] } := by
  rw [exec_clearFault]
  refine row_refused h hp rfl rfl rfl ?_
  rw [ruleClearFault, show byteAt [number] 0 = number from rfl, lineOf_eq_none hout]

theorem ruleClearFault_eq (n : LineNo) (s : State) :
    ruleClearFault [BitVec.ofNat 8 n.val] s =
      if (s.port n).state ≠ .fault then .refuse .state
      else .ok (s.withPort n { s.port n with state := .ready, consecutive := 0 }) [] := by
  rw [ruleClearFault, show byteAt [BitVec.ofNat 8 n.val] 0 = BitVec.ofNat 8 n.val from rfl, lineOf_ofNat] <;> rfl

theorem clearFault_clears (h : s.Offers r rest) (hp : r.payload = [0x14, BitVec.ofNat 8 n.val])
    (hstate : (s.port n).state = .fault) :
    exec .clearFault s = .next { s.withPort n { s.port n with state := .ready, consecutive := 0 } with
      link := s.link.replied r .ok [] } := by
  have hrule := ruleClearFault_eq n (s.startExecuting r)
  rw [startExecuting_port, if_neg (fun hne => hne hstate)] at hrule
  have hnext := row_ok h hp rfl rfl rfl hrule rfl
  rw [exec_clearFault]
  exact hnext

theorem clearFault_state (h : s.Offers r rest) (hp : r.payload = [0x14, BitVec.ofNat 8 n.val])
    (hstate : (s.port n).state ≠ .fault) :
    exec .clearFault s = .next { s with link := s.link.replied r .state [] } := by
  have hrule := ruleClearFault_eq n (s.startExecuting r)
  rw [startExecuting_port, if_pos hstate] at hrule
  rw [exec_clearFault]
  exact row_refused h hp rfl rfl rfl hrule

end ReadLine

theorem lineConfigBytes_eq (c : LineConfig) :
    lineConfigBytes c =
      [match c.role with | .off => 0 | .receive => 1 | .transmit => 2 | .echo => 3,
        match c.rate with | .k12_5 => 0 | .k50 => 1 | .k100 => 2 | .k200 => 3,
        if c.captureErrors then 1 else 0, if c.errorNotice then 1 else 0,
        match c.missRoute with | .none => 0 | .line => 1 | .merged => 2 | .both => 3,
        match c.policy with | .planFirst => 0 | .queueFirst => 1, BitVec.ofNat 8 c.echoThreshold,
        if c.keepEcho then 1 else 0] := by
  rw [lineConfigBytes, roleByte_eq, rateByte_eq, missRouteByte_eq, policyByte_eq] <;> rfl

/-- Settles O39: the results field by field, and the two rules. -/
theorem readLineAndClearFault : Obligations.ReadLineAndClearFault := by
  refine ⟨lineStateByte_eq, lineConfigBytes_eq, fun s r rest clear h => ⟨fun number hout =>
    ⟨fun hp => readLine_range h hout hp, clearFault_range h hout⟩, fun n => ⟨fun hp => ?read, fun hp =>
    ⟨clearFault_clears h hp, clearFault_state h hp⟩⟩⟩⟩
  case read =>
    rw [readLine_answers h hp, lineResults_eq]
    rfl

end Sys2Proof.Proofs
end

section
/-! PROOFS. The frame receiver (R138 to R142), request frames (R143, R144) and the executor's refusals (R148, R149, R172):
O40 to O43 and O45. -/

namespace Sys2Proof.Proofs

-- One theorem after another: elaborating them all at once costs a thread and its stack for each.
set_option Elab.async false

open Sys2Proof.Machine Sys2Proof.Laws

/-! ### One byte (R140, R141) -/

section Byte

variable {s : State} {byte : Byte}

theorem exec_byteReceived (hrunning : s.held = false) (byte : Byte) :
    exec (.byteReceived byte true) s = .next (s.takeByte byte) := by
  rw [show exec (.byteReceived byte true) s = execByteReceived byte true s from rfl, execByteReceived,
    happen_running _ hrunning, if_pos rfl]

theorem exec_byteError (hrunning : s.held = false) (byte : Byte) :
    exec (.byteReceived byte false) s = .next { s with link := { s.link with
      receiver := .hunt
      counters := { s.link.counters with byteErrors := s.link.counters.byteErrors + 1 } } } := by
  rw [show exec (.byteReceived byte false) s = execByteReceived byte false s from rfl, execByteReceived,
    happen_running _ hrunning, if_neg (by simp)]
  rfl

theorem exec_startBit (hrunning : s.held = false) :
    exec .startBit s = .next (
      match s.link.receiver with
      | .hunt => s
      | .header bytes lastAt _ => s.withReceiver (.header bytes lastAt true)
      | .body bytes lastAt _ => s.withReceiver (.body bytes lastAt true)) := by
  rw [show exec .startBit s = execStartBit s from rfl, execStartBit, happen_running _ hrunning] <;> rfl

theorem exec_interByteTimeout (hrunning : s.held = false) :
    exec .interByteTimeout s = .next (
      if s.byteGapRunOut then { s with link := { s.link with
        receiver := .hunt
        counters := { s.link.counters with timeouts := s.link.counters.timeouts + 1 } } }
      else s) := by
  rw [show exec .interByteTimeout s = execInterByteTimeout s from rfl, execInterByteTimeout,
    happen_running _ hrunning] <;> rfl

theorem takeByte_hunt (h : s.link.receiver = .hunt) :
    s.takeByte byte = if byte = 0xA7 then s.withReceiver (.header [] s.time.runClock false) else s := by
  rw [State.takeByte, h] <;> rfl

theorem takeByte_length {lastAt : Nat} {started : Bool} (h : s.link.receiver = .header [] lastAt started) :
    s.takeByte byte =
      if 250 < byte.toNat then (s.withReceiver .hunt).countLink fun c => { c with lengthErrors := c.lengthErrors + 1 }
      else s.withReceiver (.header [byte] s.time.runClock false) := by
  simp only [State.takeByte, h, true_and, List.length_nil, Nat.zero_lt_two, if_true, List.nil_append]
  rfl

theorem takeByte_kind {length : Byte} {lastAt : Nat} {started : Bool}
    (h : s.link.receiver = .header [length] lastAt started) :
    s.takeByte byte = s.withReceiver (.header [length, byte] s.time.runClock false) := by
  simp [State.takeByte, h]

theorem takeByte_seq {length kind : Byte} {lastAt : Nat} {started : Bool}
    (h : s.link.receiver = .header [length, kind] lastAt started) :
    s.takeByte byte = s.withReceiver (.body [length, kind, byte] s.time.runClock false) := by
  simp [State.takeByte, h]

/-- A byte of the payload or the CRC: the frame goes on until it is as long as its LENGTH says. -/
theorem takeByte_body {length : Byte} {bytes : List Byte} {lastAt : Nat} {started : Bool}
    (h : s.link.receiver = .body (length :: bytes) lastAt started) :
    s.takeByte byte =
      if bytes.length + 2 < length.toNat + 5 then
        s.withReceiver (.body (length :: bytes ++ [byte]) s.time.runClock false)
      else (s.withReceiver .hunt).takeFrame (length :: bytes ++ [byte]) := by
  rw [State.takeByte, h]
  simp only [show byteAt (length :: bytes ++ [byte]) 0 = length from rfl, List.length_append, List.length_cons,
    List.length_nil]

end Byte

/-! ### A frame that is complete (R140, R142) -/

/-- What a frame with a good CRC does, by its KIND. -/
def frameTaken (s : State) (kind seq : Byte) (payload : List Byte) : State :=
  if kind = 1 then s.requestFrame { seq, payload }
  else if kind = 4 then s.acknowledge seq
  else s.countLink fun c => { c with kindErrors := c.kindErrors + 1 }

theorem frameTaken_request (s : State) (r : Request) :
    frameTaken s kindRequest r.seq r.payload = s.requestFrame r := if_pos rfl

theorem frameTaken_ack (s : State) (seq : Byte) (payload : List Byte) :
    frameTaken s kindAck seq payload = s.acknowledge seq := rfl

theorem fromBytes_pair (high low : Byte) : fromBytes [high, low] = high.toNat * 256 + low.toNat := by
  simp [fromBytes]

theorem takeFrame_eq (s : State) (length kind seq high low : Byte) (payload : List Byte) :
    s.takeFrame (length :: kind :: seq :: payload ++ [high, low]) =
      if high.toNat * 256 + low.toNat ≠ (frameCrc (length :: kind :: seq :: payload)).toNat then
        s.countLink fun c => { c with crcErrors := c.crcErrors + 1 }
      else frameTaken s kind seq payload := by
  have hlength : (length :: kind :: seq :: payload ++ [high, low]).length - 2 =
      (length :: kind :: seq :: payload).length := by simp
  have hdrop : (length :: kind :: seq :: payload ++ [high, low]).drop (length :: kind :: seq :: payload).length =
      [high, low] := List.drop_left' rfl
  have htake : (length :: kind :: seq :: payload ++ [high, low]).take (length :: kind :: seq :: payload).length =
      length :: kind :: seq :: payload := List.take_left' rfl
  simp only [State.takeFrame, hlength, hdrop, htake, fromBytes_pair]
  rfl

/-! ### The gap between bytes (R141) -/

theorem byteGapRunOut_header {s : State} {bytes : List Byte} {lastAt : Nat} {started : Bool}
    (h : s.link.receiver = .header bytes lastAt started) :
    s.byteGapRunOut = true ↔ started = false ∧ lastAt + 2000 ≤ s.time.runClock := by
  simp [State.byteGapRunOut, h, reached_iff, Config.interByteGap]

theorem byteGapRunOut_body {s : State} {bytes : List Byte} {lastAt : Nat} {started : Bool}
    (h : s.link.receiver = .body bytes lastAt started) :
    s.byteGapRunOut = true ↔ started = false ∧ lastAt + 2000 ≤ s.time.runClock := by
  simp [State.byteGapRunOut, h, reached_iff, Config.interByteGap]

/-- Settles O40: one byte by the state of the receiver, and a whole frame by its CRC and its KIND. -/
theorem frameReceiver : Obligations.FrameReceiver := by
  refine fun s hrunning => ⟨fun byte h => ?hunt, exec_byteError hrunning, fun byte lastAt started h => ?length,
    fun byte length lastAt started h => ?kind, fun byte length kind lastAt started h => ?seq,
    fun byte length kind seq payload lastAt started h => ⟨fun hmore => ?more, ?whole⟩,
    fun bytes lastAt started h => ⟨?_, ?header⟩, fun bytes lastAt started h => ⟨?_, ?body⟩, fun h => ⟨?_, ?idle⟩⟩
  case hunt => rw [exec_byteReceived hrunning, takeByte_hunt h] <;> rfl
  case length => rw [exec_byteReceived hrunning, takeByte_length h] <;> rfl
  case kind => rw [exec_byteReceived hrunning, takeByte_kind h] <;> rfl
  case seq => rw [exec_byteReceived hrunning, takeByte_seq h] <;> rfl
  case more =>
    rw [exec_byteReceived hrunning, takeByte_body h, if_pos (by simpa using hmore)]
    rfl
  case whole =>
    rintro contents high rfl hcontents
    have hwhole : s.takeByte byte =
        (s.withReceiver .hunt).takeFrame (length :: kind :: seq :: contents ++ [high, byte]) := by
      rw [takeByte_body h, if_neg (by simp only [List.length_cons, List.length_append, List.length_nil]; omega)]
      simp
    rw [takeFrame_eq] at hwhole
    refine ⟨fun hbad => ?_, fun hgood hrequest hack => ?_⟩
    · rw [exec_byteReceived hrunning, hwhole, if_pos hbad]
      rfl
    · rw [exec_byteReceived hrunning, hwhole, if_neg (not_not_intro hgood), frameTaken, if_neg hrequest, if_neg hack]
      rfl
  case header =>
    rw [exec_interByteTimeout hrunning]
    simp only [byteGapRunOut_header h]
  case body =>
    rw [exec_interByteTimeout hrunning]
    simp only [byteGapRunOut_body h]
  case idle =>
    have hgap : s.byteGapRunOut = false := by simp [State.byteGapRunOut, h]
    rw [exec_interByteTimeout hrunning, hgap]
    rfl
  all_goals
    rw [exec_startBit hrunning, h] <;> rfl

/-! ### A frame byte by byte (R139, R140) -/

section Frame

variable {s : State}

theorem runBytes_cons (hrunning : s.held = false) (byte : Byte) (rest : List Byte) :
    runCommands ((byte :: rest).map fun b => .byteReceived b true) s =
      runCommands (rest.map fun b => .byteReceived b true) (s.takeByte byte) := by
  rw [List.map_cons, runCommands, exec_byteReceived hrunning]

theorem withReceiver_running (hrunning : s.held = false) (receiver : FrameReceiver) :
    (s.withReceiver receiver).held = false := hrunning

theorem withReceiver_withReceiver (s : State) (a b : FrameReceiver) :
    (s.withReceiver a).withReceiver b = s.withReceiver b := rfl

/-- The rest of a frame, from its third byte on, as long as its LENGTH says. -/
theorem runBody (hrunning : s.held = false) (length last : Byte) (more bytes : List Byte) (lastAt : Nat)
    (started : Bool) (hlength : bytes.length + more.length + 2 = length.toNat + 5) :
    runCommands ((more ++ [last]).map fun b => .byteReceived b true)
      (s.withReceiver (.body (length :: bytes) lastAt started)) =
      .next ((s.withReceiver .hunt).takeFrame (length :: bytes ++ (more ++ [last]))) := by
  induction more generalizing bytes lastAt started with
  | nil =>
    simp only [List.length_nil] at hlength
    rw [List.nil_append, runBytes_cons (withReceiver_running hrunning _), takeByte_body rfl, if_neg (by omega)]
    rfl
  | cons byte rest ih =>
    simp only [List.length_cons] at hlength
    have hnext := ih (bytes ++ [byte]) s.time.runClock false
      (by simp only [List.length_append, List.length_singleton]; omega)
    rw [List.cons_append, runBytes_cons (withReceiver_running hrunning _), takeByte_body rfl, if_pos (by omega),
      withReceiver_withReceiver]
    simpa [State.withReceiver] using hnext

/-- A frame of Table 9-2 with a payload of up to 250 bytes, from HUNT, is taken whole. -/
theorem runFrame (hrunning : s.held = false) (hhunt : s.link.receiver = .hunt) (kind seq : Byte)
    {payload : List Byte} (hpayload : payload.length ≤ 250) :
    runCommands ((frameBytes kind seq payload).map fun b => .byteReceived b true) s =
      .next (frameTaken s kind seq payload) := by
  have hlength : (BitVec.ofNat 8 payload.length).toNat = payload.length := by
    rw [BitVec.toNat_ofNat]
    omega
  generalize hbyte : BitVec.ofNat 8 payload.length = length at hlength
  generalize hcrc : frameCrc (length :: kind :: seq :: payload) = crc
  have hparts : bigEndian 2 crc.toNat = [BitVec.ofNat 8 (crc.toNat / 256), BitVec.ofNat 8 crc.toNat] := by
    simp [bigEndian]
  have hvalue : (BitVec.ofNat 8 (crc.toNat / 256)).toNat * 256 + (BitVec.ofNat 8 crc.toNat).toNat = crc.toNat := by
    have hlt := crc.isLt
    simp only [BitVec.toNat_ofNat]
    omega
  have hframe : frameBytes kind seq payload = syncByte :: length :: kind :: seq ::
      (payload ++ [BitVec.ofNat 8 (crc.toNat / 256)] ++ [BitVec.ofNat 8 crc.toNat]) := by
    rw [frameBytes, hbyte, hcrc, hparts]
    simp
  have hhunted : s.withReceiver .hunt = s := by
    rw [State.withReceiver, ← hhunt]
  rw [hframe, runBytes_cons hrunning, takeByte_hunt hhunt, if_pos (show syncByte = 0xA7 from rfl),
    runBytes_cons (withReceiver_running hrunning _), takeByte_length rfl,
    if_neg (by omega), withReceiver_withReceiver, runBytes_cons (withReceiver_running hrunning _), takeByte_kind rfl,
    withReceiver_withReceiver, runBytes_cons (withReceiver_running hrunning _), takeByte_seq rfl,
    withReceiver_withReceiver]
  have hrun := runBody hrunning length (BitVec.ofNat 8 crc.toNat) (payload ++ [BitVec.ofNat 8 (crc.toNat / 256)])
    [kind, seq] s.time.runClock false (by
      simp only [List.length_append, List.length_cons, List.length_nil]
      omega)
  refine Eq.trans hrun ?_
  have hwhole := takeFrame_eq s length kind seq (BitVec.ofNat 8 (crc.toNat / 256)) (BitVec.ofNat 8 crc.toNat) payload
  rw [hcrc, hvalue, if_neg (not_not_intro rfl)] at hwhole
  rw [hhunted, ← hwhole]
  simp

end Frame

/-! ### A request frame (R143, R144) -/

section RequestFrame

variable {s : State} {r : Request}

theorem find_none (h : ∀ reply ∈ s.link.cache, reply.seq ≠ r.seq) :
    (s.link.cache.find? fun reply => reply.seq == r.seq) = none := by
  rw [List.find?_eq_none]
  exact fun reply hreply => by simpa using h reply hreply

theorem seqPending_iff (seq : Byte) : s.seqPending seq = true ↔
    (∃ e ∈ s.link.executing, e.request.seq = seq) ∨ (∃ other ∈ s.link.requests, other.seq = seq) := by
  cases hexecuting : s.link.executing <;> simp [State.seqPending, hexecuting]

theorem requestFrame_enters (hcache : ∀ reply ∈ s.link.cache, reply.seq ≠ r.seq)
    (hexecuting : ∀ e ∈ s.link.executing, e.request.seq ≠ r.seq) (hwaiting : ∀ other ∈ s.link.requests, other.seq ≠ r.seq)
    (hroom : s.link.requests.length < 4) :
    s.requestFrame r = { s with link := { s.link with requests := s.link.requests ++ [r] } } := by
  have hpending : ¬ s.seqPending r.seq = true := by
    rw [seqPending_iff]
    rintro (⟨e, he, hseq⟩ | ⟨other, hother, hseq⟩)
    · exact hexecuting e he hseq
    · exact hwaiting other hother hseq
  rw [State.requestFrame, find_none hcache]
  simp only [if_neg hpending, if_pos (show s.link.requests.length < Config.waitingRequests from hroom)]

theorem requestFrame_busy (hcache : ∀ reply ∈ s.link.cache, reply.seq ≠ r.seq)
    (hexecuting : ∀ e ∈ s.link.executing, e.request.seq ≠ r.seq) (hwaiting : ∀ other ∈ s.link.requests, other.seq ≠ r.seq)
    (hfull : s.link.requests.length = 4) :
    s.requestFrame r = (s.countLink fun c => { c with busyRefusals := c.busyRefusals + 1 }).listOrDrop
      (replyTo r .busy []) := by
  have hpending : ¬ s.seqPending r.seq = true := by
    rw [seqPending_iff]
    rintro (⟨e, he, hseq⟩ | ⟨other, hother, hseq⟩)
    · exact hexecuting e he hseq
    · exact hwaiting other hother hseq
  have hhead : byteAt r.payload 0 = r.payload.headD 0 := by cases r.payload <;> rfl
  rw [State.requestFrame, find_none hcache]
  simp only [if_neg hpending,
    if_neg (show ¬ s.link.requests.length < Config.waitingRequests from (Nat.le_of_eq hfull.symm).not_gt), replyTo,
    replyPayload, hhead]

theorem requestFrame_pending (hcache : ∀ reply ∈ s.link.cache, reply.seq ≠ r.seq)
    (hknown : (∃ e ∈ s.link.executing, e.request.seq = r.seq) ∨ (∃ other ∈ s.link.requests, other.seq = r.seq)) :
    s.requestFrame r = s.countLink fun c => { c with duplicates := c.duplicates + 1 } := by
  rw [State.requestFrame, find_none hcache]
  simp only [if_pos ((seqPending_iff r.seq).2 hknown)]

theorem requestFrame_cached {reply : Reply} (h : s.link.cache.find? (fun other => other.seq == r.seq) = some reply) :
    s.requestFrame r = (s.countLink fun c => { c with duplicates := c.duplicates + 1 }).listOrDrop
      { reply with endsReset := false } := by
  rw [State.requestFrame, h]

theorem listOrDrop_lists {f : LinkCounters → LinkCounters} {reply : Reply} (h : s.link.replies.length < 7) :
    (s.countLink f).listOrDrop reply =
      { s with link := { s.link with replies := s.link.replies ++ [reply], counters := f s.link.counters } } := by
  rw [State.listOrDrop, if_pos (show (s.countLink f).link.replies.length < Config.listedReplies - 1 from h)]
  rfl

theorem listOrDrop_drops {f : LinkCounters → LinkCounters} {reply : Reply} (h : ¬ s.link.replies.length < 7) :
    (s.countLink f).listOrDrop reply = { s with link := { s.link with
      counters := { f s.link.counters with busyDropped := (f s.link.counters).busyDropped + 1 } } } := by
  rw [State.listOrDrop, if_neg (show ¬ (s.countLink f).link.replies.length < Config.listedReplies - 1 from h)]
  rfl

end RequestFrame

/-- Settles O41: the frame byte by byte, and the request's entry. -/
theorem requestFrameReceived : Obligations.RequestFrameReceived := by
  intro s r hrunning hhunt hpayload hroom hcache hexecuting hwaiting
  rw [runFrame hrunning hhunt kindRequest r.seq hpayload, frameTaken_request,
    requestFrame_enters hcache hexecuting hwaiting hroom]

/-- Settles O42: the frame byte by byte, and the request by the SEQs that are known. -/
theorem repeatsAndBusy : Obligations.RepeatsAndBusy := by
  intro s r hrunning hhunt hpayload
  have hframe := runFrame hrunning hhunt kindRequest r.seq hpayload
  rw [frameTaken_request] at hframe
  refine ⟨fun reply hreply => ?cached, fun hcache hknown => ?pending,
    fun hcache hexecuting hwaiting hfull => ?busy⟩
  case cached =>
    rw [hframe, requestFrame_cached hreply]
    by_cases hroom : s.link.replies.length < 7
    · rw [if_pos hroom, listOrDrop_lists hroom]
    · rw [if_neg hroom, listOrDrop_drops hroom]
  case pending =>
    rw [hframe, requestFrame_pending hcache hknown]
    rfl
  case busy =>
    rw [hframe, requestFrame_busy hcache hexecuting hwaiting hfull]
    by_cases hroom : s.link.replies.length < 7
    · rw [if_pos hroom, listOrDrop_lists hroom]
    · rw [if_neg hroom, listOrDrop_drops hroom]

/-! ### The rows of the executor (R148, R149, R172) -/

/-- Every row of Table 11-3 carries its request out by a rule of its own. -/
theorem exec_requestRow {c : Instr} (h : c ∈ requestTable.map RequestRow.command) :
    ∃ rule, ∀ s, exec c s = s.happen (State.carryOut c rule) := by
  cases c
  case identify => exact ⟨_, exec_identify⟩
  case getStatus => exact ⟨_, exec_getStatus⟩
  case resetTraffic => exact ⟨_, exec_resetTraffic⟩
  case resetFull => exact ⟨_, exec_resetFull⟩
  case configureLine => exact ⟨_, exec_configureLine⟩
  case startLine => exact ⟨_, exec_startLine⟩
  case stopLine => exact ⟨_, exec_stopLine⟩
  case readLine => exact ⟨_, exec_readLine⟩
  case clearFault => exact ⟨_, exec_clearFault⟩
  case addTag => exact exec_tagRow rfl
  case changeTag => exact exec_tagRow rfl
  case removeTag => exact exec_tagRow rfl
  case readTag => exact exec_tagRow rfl
  case listTags => exact exec_tagRow rfl
  case clearTags => exact exec_tagRow rfl
  case setQueue => exact ⟨_, exec_setQueue⟩
  case readQueue => exact ⟨_, exec_readQueue⟩
  case setTime => exact ⟨_, exec_setTime⟩
  case armTime => exact ⟨_, exec_armTime⟩
  case cancelArm => exact ⟨_, exec_cancelArm⟩
  case readTime => exact ⟨_, exec_readTime⟩
  case setPulseNotice => exact ⟨_, exec_setPulseNotice⟩
  case addSlot => exact ⟨_, exec_addSlot⟩
  case changeSlot => exact ⟨_, exec_changeSlot⟩
  case setValue => exact ⟨_, exec_setValue⟩
  case removeSlot => exact ⟨_, exec_removeSlot⟩
  case readSlot => exact ⟨_, exec_readSlot⟩
  case send => exact ⟨_, exec_send⟩
  case startReports => exact ⟨ruleStartReports, fun s => rfl⟩
  case stopReports => exact ⟨ruleStopReports, fun s => rfl⟩
  case resync => exact ⟨fun _ s => .ok s.discardWindow (bigEndian 1 s.reports.window.length), fun s => rfl⟩
  case subscribe => exact ⟨ruleSubscribe, fun s => rfl⟩
  case unsubscribe => exact ⟨ruleUnsubscribe, fun s => rfl⟩
  case flush => exact ⟨ruleFlush, fun s => rfl⟩
  all_goals simp [requestTable] at h

theorem exec_unknownRequest (s : State) :
    exec .unknownRequest s = s.happen fun s =>
      match s.requestFor .unknownRequest with
      | none => s
      | some r => (s.startExecuting r).answered r (if r.payload = [] then .format else .unknown) [] := by
  rw [show exec .unknownRequest s = execUnknownRequest s from rfl, execUnknownRequest] <;> rfl

/-- A row that finds no request of its own changes nothing. -/
theorem exec_noRequest {s : State} {c : Instr} (hrow : IsRequestRow c) (h : s.requestFor c = none) :
    exec c s = .next s := by
  rcases hrow with rfl | ⟨row, hrow, rfl⟩
  · rw [exec_unknownRequest, State.happen]
    simp only [h, ite_self]
  · obtain ⟨rule, hexec⟩ := exec_requestRow (List.mem_map_of_mem hrow)
    rw [hexec, State.happen, carryOut_none _ rule h, ite_self]

theorem requestLength_row : ∀ row ∈ requestTable, requestLength row.command = row.length := by decide

section Refusals

variable {s : State} {r : Request} {rest : List Request}

theorem unknownRequest_answers (h : s.Offers r rest) (hc : requestCommand r.payload = .unknownRequest) :
    exec .unknownRequest s = .next { s with
      link := s.link.replied r (if r.payload = [] then .format else .unknown) [] } := by
  rw [exec_unknownRequest, happen_running _ h.running]
  simp only [requestFor_offered h hc]
  exact congrArg Host.Outcome.next (conclude_refuse h _)

/-- A kind that Table 11-3 does not hold is UNKNOWN_REQUEST's. -/
theorem requestCommand_undefined {kind : Byte} {fields : List Byte} (h : ∀ row ∈ requestTable, row.code ≠ kind) :
    requestCommand (kind :: fields) = .unknownRequest := by
  have hreset : kind ≠ 0x03 := fun heq => h ⟨0x03, 2, .resetTraffic⟩ (by decide) heq.symm
  have hnone : (requestTable.find? fun row => row.code == kind) = none := by
    rw [List.find?_eq_none]
    exact fun row hrow => by simpa using h row hrow
  rw [requestCommand, if_neg hreset, hnone]
  rfl

theorem format_refused (h : s.Offers r rest) {row : RequestRow} (hrow : row ∈ requestTable)
    (hc : requestCommand r.payload = row.command) (hl : r.payload.length ≠ row.length) :
    exec row.command s = .next { s with link := s.link.replied r .format [] } := by
  obtain ⟨rule, hexec⟩ := exec_requestRow (List.mem_map_of_mem hrow)
  rw [hexec, happen_running _ h.running, carryOut_format h rule hc (by rwa [requestLength_row row hrow])]

/-! A clear option above 1 is refused before anything else is judged (R173). -/

theorem yesNoOf_eq_none {clear : Byte} (h : 1 < clear.toNat) : yesNoOf clear = none := by
  rw [yesNoOf_eq, if_neg]
  rintro (rfl | rfl) <;> exact absurd h (by decide)

theorem readLine_clear (h : s.Offers r rest) {a clear : Byte} (hclear : 1 < clear.toNat)
    (hp : r.payload = [0x13, a, clear]) :
    exec .readLine s = .next { s with link := s.link.replied r .range [] } := by
  rw [exec_readLine]
  refine row_refused h hp rfl rfl rfl ?_
  rw [ruleReadLine, show byteAt [a, clear] 1 = clear from rfl, yesNoOf_eq_none hclear]
  cases lineOf (byteAt [a, clear] 0) <;> rfl

theorem readQueue_clear (h : s.Offers r rest) {a clear : Byte} (hclear : 1 < clear.toNat)
    (hp : r.payload = [0x31, a, clear]) :
    exec .readQueue s = .next { s with link := s.link.replied r .range [] } := by
  rw [exec_readQueue]
  refine row_refused h hp rfl rfl rfl ?_
  rw [ruleReadQueue, show byteAt [a, clear] 1 = clear from rfl, yesNoOf_eq_none hclear]
  cases queueOf (byteAt [a, clear] 0) <;> rfl

theorem readSlot_clear (h : s.Offers r rest) {a b clear : Byte} (hclear : 1 < clear.toNat)
    (hp : r.payload = [0x54, a, b, clear]) :
    exec .readSlot s = .next { s with link := s.link.replied r .range [] } := by
  rw [exec_readSlot]
  refine row_refused h hp rfl rfl rfl ?_
  rw [ruleReadSlot, show byteAt [a, b, clear] 2 = clear from rfl, yesNoOf_eq_none hclear]
  cases slotOf (numberAt [a, b, clear] 0 2) <;> rfl

theorem readTag_clear (h : s.OffersTag r rest) {a b c clear : Byte} (hclear : 1 < clear.toNat)
    (hp : r.payload = [0x23, a, b, c, clear]) :
    exec .readTag s = .next { s with link := s.link.replied r .range [] } := by
  rw [exec_readTag]
  refine tagRow_refused h hp rfl rfl ?_
  rw [ruleReadTag, show byteAt [a, b, c, clear] 3 = clear from rfl, yesNoOf_eq_none hclear]
  cases keyOf [a, b, c, clear] 0 <;> rfl

end Refusals

theorem statusByte_eq (status : Status) :
    statusByte status = match status with
      | .ok => 0 | .busy => 1 | .unknown => 2 | .format => 3 | .range => 4 | .state => 5 | .full => 6 | .absent => 7
      | .exists => 8 := by
  cases status <;> rfl

/-- Settles O43: the tables, the rows that find no request, and the refusals. -/
theorem unknownAndFormat : Obligations.UnknownAndFormat := by
  refine ⟨statusByte_eq, by decide, fun s c hrow => ⟨fun e he hother => ?held, fun hfree hnone => ?free⟩,
    fun s r rest h => ⟨fun hp => ?empty, fun kind fields hp hundefined => ?undefined,
      fun row hrow hc hl => format_refused h hrow hc hl, fun clear a b c hclear =>
      ⟨readLine_clear h hclear, readQueue_clear h hclear, readSlot_clear h hclear, fun hp hbusy hcurrent =>
        readTag_clear { h with idle := hbusy, current := hcurrent } hclear hp⟩⟩⟩
  case held =>
    refine exec_noRequest hrow (requestFor_none c (fun other hsame => ?_) fun hnone => ?_)
    · cases he.symm.trans hsame
      exact hother
    · cases he.symm.trans hnone
  case free =>
    refine exec_noRequest hrow (requestFor_none c (fun other hsame => ?_) fun _ => hnone)
    cases hfree.symm.trans hsame
  case empty =>
    rw [unknownRequest_answers h (by rw [hp]; rfl), hp, if_pos rfl]
  case undefined =>
    rw [unknownRequest_answers h (by rw [hp, requestCommand_undefined hundefined]), if_neg (by rw [hp]; exact nofun)]

/-! ### GET_STATUS (R151, Table 11-4) -/

theorem resetCauseByte_eq (cause : ResetCause) :
    resetCauseByte cause = match cause with | .power => 0 | .request => 1 := by cases cause <;> rfl

theorem reportingByte_eq (state : ReportingState) :
    reportingByte state = match state with | .silent => 0 | .active => 1 | .stalled => 2 := by cases state <;> rfl

theorem linkCounterBytes_eq (c : LinkCounters) :
    linkCounterBytes c =
      bigEndian 4 c.byteErrors.toNat ++ bigEndian 4 c.timeouts.toNat ++ bigEndian 4 c.lengthErrors.toNat ++
      bigEndian 4 c.crcErrors.toNat ++ bigEndian 4 c.kindErrors.toNat ++ bigEndian 4 c.duplicates.toNat ++
      bigEndian 4 c.busyRefusals.toNat ++ bigEndian 4 c.busyDropped.toNat := by
  simp only [linkCounterBytes, List.map_cons, List.map_nil, List.flatten_cons, List.flatten_nil, List.append_nil,
    List.append_assoc]

/-- Settles O45: the results field by field. -/
theorem getStatus : Obligations.GetStatus := by
  intro s r rest h hp
  have hattn : (if s.attn then (1 : Byte) else 0) =
      if s.reports.state = .stalled ∨ (∃ n, (s.port n).state = .fault) then 1 else 0 :=
    if_congr (attn_iff s) rfl rfl
  rw [getStatus_answers h hp, statusResults_eq, statusBeforeAttn, statusAfterAttn, hattn, resetCauseByte_eq,
    reportingByte_eq, linkCounterBytes_eq]
  simp only [lineStateByte_eq, State.freePool, List.append_assoc, List.cons_append, List.nil_append]
  rfl

end Sys2Proof.Proofs
end

section
/-! PROOFS. The link transmitter and the layouts of notices, records and reports (R138, R146, R147, R163, R165, R174): O47. -/

namespace Sys2Proof.Proofs

-- One theorem after another: elaborating them all at once costs a thread and its stack for each.
set_option Elab.async false

open Sys2Proof.Machine Sys2Proof.Laws

/-! ### What the transmitter starts (R147, R163, R165) -/

section Start

variable {s : State}

theorem exec_linkFrameStart (hrunning : s.held = false) :
    exec .linkFrameStart s = .next (
      if s.transmitterIdle then
        match s.link.replies.head?, s.offeredReport with
        | some reply, _ => s.startReplyFrame reply
        | none, some report => s.startReportFrame report
        | none, none => s
      else s) := by
  rw [show exec .linkFrameStart s = execLinkFrameStart s from rfl, execLinkFrameStart, happen_running _ hrunning] <;>
    rfl

theorem resetDue_iff : s.resetDue = true ↔ ∃ r, s.link.executing = some ⟨r, .resetDue⟩ := by
  rw [State.resetDue, beq_iff_eq, Option.map_eq_some_iff]
  constructor
  · rintro ⟨⟨r, hold⟩, he, rfl⟩
    exact ⟨r, he⟩
  · rintro ⟨r, he⟩
    exact ⟨⟨r, .resetDue⟩, he, rfl⟩

theorem transmitterIdle_iff : s.transmitterIdle = true ↔
    s.link.transmitter = none ∧ ∀ r, s.link.executing ≠ some ⟨r, .resetDue⟩ := by
  rw [State.transmitterIdle, Bool.and_eq_true, Option.isNone_iff_eq_none, Bool.not_eq_true', ← Bool.not_eq_true,
    resetDue_iff, not_exists]

theorem linkFrameStart_busy (hrunning : s.held = false) (hbusy : ¬ s.transmitterIdle = true) :
    exec .linkFrameStart s = .next s := by
  rw [exec_linkFrameStart hrunning, if_neg hbusy]

theorem linkFrameStart_reply (hrunning : s.held = false) (hidle : s.transmitterIdle = true) {reply : Reply}
    {rest : List Reply} (hreplies : s.link.replies = reply :: rest) :
    exec .linkFrameStart s = .next { s with link := { s.link with
      replies := rest
      transmitter := some ⟨frameBytes 2 reply.seq reply.payload, s.time.runClock, reply.endsReset⟩ } } := by
  rw [exec_linkFrameStart hrunning, if_pos hidle]
  simp only [hreplies, List.head?_cons, State.startReplyFrame, List.tail_cons]
  rfl

/-- The oldest due report is the one offered. -/
theorem offeredReport_oldest {older newer : List Report} {report : Report} (hactive : s.reports.state = .active)
    (hwindow : s.reports.window = older ++ report :: newer) (hdue : report.due = true)
    (holder : ∀ other ∈ older, other.due = false) : s.offeredReport = some report := by
  have hnone : older.find? Report.due = none :=
    List.find?_eq_none.2 fun other hother => Bool.eq_false_iff.1 (holder other hother)
  rw [State.offeredReport, if_pos hactive, hwindow, List.find?_append, hnone, Option.none_or,
    List.find?_cons_of_pos hdue]

theorem offeredReport_none (h : s.reports.state ≠ .active ∨ ∀ report ∈ s.reports.window, report.due = false) :
    s.offeredReport = none := by
  rw [State.offeredReport]
  split
  next hactive =>
    rcases h with h | h
    · exact absurd hactive h
    · exact List.find?_eq_none.2 fun report hreport => Bool.eq_false_iff.1 (h report hreport)
  next => rfl

section Report

variable {older newer : List Report} {report : Report} (hwindow : s.reports.window = older ++ report :: newer)
  (hseqs : ∀ other ∈ older ++ newer, other.seq ≠ report.seq)

include hwindow hseqs

/-- Behind the records that older reports hold in flight stand those of the report (R68). -/
theorem reportPayload_eq : s.reportPayload report = match report.body with
    | .notices list loss => noticeReportPayload list loss
    | .data n count loss => dataReportPayload n (((s.queue n).records.drop (olderCount n older)).take count) loss := by
  have holder : (s.reports.window.takeWhile fun other => other.seq != report.seq) = older := by
    rw [hwindow, List.takeWhile_append_of_pos fun other hother => by
      simpa using hseqs other (List.mem_append_left _ hother), List.takeWhile_cons_of_neg (by simp), List.append_nil]
  rw [State.reportPayload]
  cases report.body with
  | notices list loss => rfl
  | data n count loss => simp only [holder]

/-- The report whose frame starts is no longer due; no other report has its SEQ. -/
theorem sentWindow_eq :
    (s.reports.window.map fun other => if other.seq = report.seq then { other with due := false } else other) =
      older ++ { report with due := false } :: newer := by
  have hkept (part : List Report) (hpart : ∀ other ∈ part, other.seq ≠ report.seq) :
      (part.map fun other => if other.seq = report.seq then { other with due := false } else other) = part :=
    (List.map_congr_left fun other hother => if_neg (hpart other hother)).trans (List.map_id _)
  rw [hwindow, List.map_append, List.map_cons, if_pos rfl,
    hkept older fun other hother => hseqs other (List.mem_append_left _ hother),
    hkept newer fun other hother => hseqs other (List.mem_append_right _ hother)]

theorem linkFrameStart_report (hrunning : s.held = false) (hidle : s.transmitterIdle = true)
    (hreplies : s.link.replies = []) (hactive : s.reports.state = .active) (hdue : report.due = true)
    (holder : ∀ other ∈ older, other.due = false) :
    exec .linkFrameStart s = .next { s with
      link := { s.link with
        transmitter := some ⟨frameBytes 3 report.seq (s.reportPayload report), s.time.runClock, false⟩ }
      reports := { s.reports with
        window := older ++ { report with due := false } :: newer
        timer := some (s.reports.timer.getD (s.time.runClock + s.reports.timeout * 1000)) } } := by
  have hhead : s.link.replies.head? = none := by rw [hreplies, List.head?_nil]
  have hoffered := offeredReport_oldest hactive hwindow hdue holder
  rw [exec_linkFrameStart hrunning, if_pos hidle]
  simp only [hhead, hoffered, State.startReportFrame, sentWindow_eq hwindow hseqs]
  rfl

end Report

theorem linkFrameStart_nothing (hrunning : s.held = false) (hreplies : s.link.replies = [])
    (hnone : s.reports.state ≠ .active ∨ ∀ report ∈ s.reports.window, report.due = false) :
    exec .linkFrameStart s = .next s := by
  rw [exec_linkFrameStart hrunning]
  simp only [hreplies, List.head?_nil, offeredReport_none hnone, ite_self]

theorem linkFrameComplete_eq (hrunning : s.held = false) {f : TransmitFrame} (hframe : s.link.transmitter = some f)
    (hreset : f.endsReset = false) :
    exec .linkFrameComplete s = .next (
      if f.bytes.length * 10 * 1000000 ≤ (s.time.runClock - f.startedAt) * baud s.link.rate then
        { s with link := { s.link with transmitter := none } }
      else s) := by
  by_cases hsent : s.frameSent f = true
  · rw [exec_linkFrameComplete hrunning hframe hsent, if_pos (of_decide_eq_true hsent), hreset]
    rfl
  · rw [show exec .linkFrameComplete s = execLinkFrameComplete s from rfl, execLinkFrameComplete,
      happen_running _ hrunning, if_neg fun hlong => hsent (decide_eq_true hlong)]
    simp only [hframe, if_neg hsent]

end Start

/-! ### The levels of HTXD (R138) -/

theorem byteLevels_length (byte : Byte) : (byteLevels byte).length = 10 := rfl

/-- The level of each of the ten bit periods of a byte. -/
theorem byteLevels_getElem (byte : Byte) (j : Nat) (hj : j < 10) :
    (byteLevels byte)[j]? = some (if j = 0 then false else if j = 9 then true else byte.getLsbD (j - 1)) := by
  interval_cases j <;> rfl

/-- A byte of a frame takes ten bit periods, byte after byte. -/
theorem levels_getElem (bytes : List Byte) (k : Nat) (byte : Byte) (hbyte : bytes[k]? = some byte) (j : Nat)
    (hj : j < 10) : (bytes.map byteLevels).flatten[10 * k + j]? = (byteLevels byte)[j]? := by
  induction bytes generalizing k with
  | nil => cases hbyte
  | cons first rest ih =>
    rw [List.map_cons, List.flatten_cons]
    cases k with
    | zero =>
      cases hbyte
      rw [Nat.mul_zero, Nat.zero_add, List.getElem?_append_left (by rwa [byteLevels_length])]
    | succ k =>
      rw [List.getElem?_append_right (by rw [byteLevels_length]; omega), byteLevels_length,
        show 10 * (k + 1) + j - 10 = 10 * k + j by omega]
      exact ih k hbyte

theorem levels_length (bytes : List Byte) : (bytes.map byteLevels).flatten.length = 10 * bytes.length := by
  induction bytes with
  | nil => rfl
  | cons first rest ih =>
    rw [List.map_cons, List.flatten_cons, List.length_append, ih, byteLevels_length, List.length_cons]
    ring

section Htxd

variable {s : State} {f : TransmitFrame} (hrunning : s.held = false) (hframe : s.link.transmitter = some f)

include hrunning hframe

theorem htxd_eq : s.htxd = ((f.bytes.map byteLevels).flatten[s.bitPeriods f]?).getD true := by
  simp only [State.htxd, hframe, hrunning, Bool.false_or]

theorem htxd_sending (k : Nat) (byte : Byte) (j : Nat) (hbyte : f.bytes[k]? = some byte) (hj : j < 10)
    (hlow : (10 * k + j) * 1000000 ≤ (s.time.runClock - f.startedAt) * baud s.link.rate)
    (hhigh : (s.time.runClock - f.startedAt) * baud s.link.rate < (10 * k + j + 1) * 1000000) :
    s.htxd = if j = 0 then false else if j = 9 then true else byte.getLsbD (j - 1) := by
  have hperiods : s.bitPeriods f = 10 * k + j := Nat.div_eq_of_lt_le hlow hhigh
  rw [htxd_eq hrunning hframe, hperiods, levels_getElem _ k byte hbyte j hj, byteLevels_getElem byte j hj,
    Option.getD_some]

theorem htxd_sent (hsent : f.bytes.length * 10 * 1000000 ≤ (s.time.runClock - f.startedAt) * baud s.link.rate) :
    s.htxd = true := by
  have hperiods : f.bytes.length * 10 ≤ s.bitPeriods f := (Nat.le_div_iff_mul_le (by decide)).2 hsent
  rw [htxd_eq hrunning hframe, List.getElem?_eq_none (by rw [levels_length]; omega), Option.getD_none]

end Htxd

theorem htxd_high {s : State} (h : s.link.transmitter = none ∨ s.held = true) : s.htxd = true := by
  rcases h with h | h
  · simp only [State.htxd, h]
  · cases hframe : s.link.transmitter with
    | none => simp only [State.htxd, hframe]
    | some f => simp only [State.htxd, hframe, h, Bool.true_or]

/-! ### The layouts of notices (Table 11-7) -/

/-- Judgement, error kind and consecutive count of an ECHO_MISMATCH or a LINE_FAULT notice. -/
theorem mismatchDetail_eq (judgement : Judgement) (consecutive : Nat) :
    mismatchDetail judgement consecutive =
      (match judgement with
        | .matched => 0 | .different => 0x010000 | .error .check => 0x020100 | .error .length => 0x020200
        | .error .code => 0x020300 | .missing => 0x030000) + consecutive % 256 := by
  cases judgement with
  | error kind => cases kind <;> rfl
  | matched => rfl
  | different => rfl
  | missing => rfl

theorem errorDetail_eq (kind : ErrorKind) (count : Nat) :
    errorDetail kind count = (match kind with | .check => 0x40 | .length => 0x80 | .code => 0xC0) + min count 63 := by
  cases kind <;> rfl

theorem noticeLine_eq (line : Option QueueNo) :
    BitVec.ofNat 8 ((line.map Fin.val).getD 255) =
      (match line with | some n => BitVec.ofNat 8 n.val | none => 255) := by
  cases line <;> rfl

/-- The code and the detail of a notice. -/
def noticeField (body : NoticeBody) : Byte × Nat :=
  match body with
  | .stale leftFresh deadline => (1, (if leftFresh then 0x03000000 else 0x02000000) + deadline)
  | .freshAgain ms => (2, ms)
  | .early action interval => (3, (match action with | .keep => 0 | .drop => 0x80000000) + interval)
  | .change changed value => (4, (if changed then 0x01000000 else 0) + value.toNat)
  | .lineError kind count =>
    (5, (match kind with | .check => 0x40 | .length => 0x80 | .code => 0xC0) + min count 63)
  | .queueFull depth => (6, depth)
  | .slotMiss index age => (7, index.val * 0x10000 + age)
  | .slotDone index => (8, index.val)
  | .echoMismatch judgement consecutive => (9, mismatchDetail judgement consecutive)
  | .lineFault stopping judgement consecutive =>
    (10, (if stopping then 0x01000000 else 0) + mismatchDetail judgement consecutive)
  | .pulse loaded edges => (11, (if loaded then 0x80000000 else 0) + min edges 2147483647)
  | .timeAligned ms => (12, ms)
  | .armExpired ms => (13, ms)

theorem noticeField_eq (body : NoticeBody) : (noticeCode body, noticeDetail body) = noticeField body := by
  cases body with
  | stale leftFresh deadline => cases leftFresh <;> rfl
  | early action interval => cases action <;> rfl
  | change changed value => cases changed <;> rfl
  | lineError kind count => cases kind <;> rfl
  | lineFault stopping judgement consecutive => cases stopping <;> simp [noticeCode, noticeDetail, noticeField]
  | pulse loaded edges => cases loaded <;> simp [noticeCode, noticeDetail, noticeField]
  | freshAgain ms => rfl
  | queueFull depth => rfl
  | slotMiss index age => rfl
  | slotDone index => rfl
  | echoMismatch judgement consecutive => rfl
  | timeAligned ms => rfl
  | armExpired ms => rfl

theorem noticeBytes_eq (x : Notice) :
    noticeBytes x = (noticeField x.body).1 ::
      (match x.line with | some n => BitVec.ofNat 8 n.val | none => 255) :: (bigEndian 2 x.tag.toNat ++
        bigEndian 4 (noticeField x.body).2 ++ x.stamp.epoch :: bigEndian 8 x.stamp.time) := by
  rw [noticeBytes, noticeLine_eq, ← noticeField_eq]
  simp only [List.cons_append, List.nil_append, List.append_assoc]

theorem noticeReportPayload_eq (list : List Notice) (loss : Nat) :
    noticeReportPayload list loss =
      2 :: BitVec.ofNat 8 list.length :: (bigEndian 2 loss ++ (list.map noticeBytes).flatten) := by
  simp only [noticeReportPayload, List.cons_append, List.nil_append]

/-! ### The layouts of records (Table 11-6) -/

theorem flagsByte_eq (f : RecordFlags) :
    flagsByte f = (if f.early then 1 else 0) ||| (if f.first then 2 else 0) ||| (if f.changed then 4 else 0) |||
      (if f.any then 8 else 0) ||| (if f.miss then 16 else 0) ||| (if f.own then 32 else 0) := by
  have hall : ∀ early first changed any miss own : Bool, flagsByte ⟨early, first, changed, any, miss, own⟩ =
      (if early then 1 else 0) ||| (if first then 2 else 0) ||| (if changed then 4 else 0) |||
        (if any then 8 else 0) ||| (if miss then 16 else 0) ||| (if own then 32 else 0) := by decide
  exact hall f.early f.first f.changed f.any f.miss f.own

/-- Kind, flags and detail of a record. -/
def recordField (body : RecordBody) : Byte × Byte × Byte :=
  match body with
  | .word f => (1, (if f.early then 1 else 0) ||| (if f.first then 2 else 0) ||| (if f.changed then 4 else 0) |||
      (if f.any then 8 else 0) ||| (if f.miss then 16 else 0) ||| (if f.own then 32 else 0), 0)
  | .errorWord error count =>
    (2, 0, (match error with | .check => 0x40 | .length => 0x80 | .code => 0xC0) + BitVec.ofNat 8 (min count 63))
  | .mark reason => (3, 0, match reason with | .timeSet => 1 | .timeAligned => 2 | .lineStart => 3)

theorem recordHead_eq (body : RecordBody) (line : QueueNo) :
    recordHead body line = [(recordField body).1, (recordField body).2.1, BitVec.ofNat 8 line.val,
      (recordField body).2.2] := by
  cases body with
  | word f => rw [recordHead, flagsByte_eq, recordField]
  | errorWord kind count =>
    cases kind <;> simp only [recordHead, errorDetail_eq, BitVec.ofNat_add, recordField] <;> rfl
  | mark reason => cases reason <;> rfl

theorem recordBytes_eq (r : CaptureRecord) :
    recordBytes r = (recordField r.body).1 :: (recordField r.body).2.1 :: BitVec.ofNat 8 r.line.val ::
      (recordField r.body).2.2 :: (bigEndian 2 (lineTag r.bits).toNat ++ bigEndian 3 (lineValue r.bits).toNat ++
        BitVec.ofNat 8 (lineCheck r.bits).toNat :: r.stamp.epoch :: bigEndian 8 r.stamp.time) := by
  rw [recordBytes, recordHead_eq, bigEndian_one]
  simp only [List.cons_append, List.nil_append, List.append_assoc]

theorem dataReportPayload_eq (stream : QueueNo) (records : List CaptureRecord) (loss : Nat) :
    dataReportPayload stream records loss =
      1 :: BitVec.ofNat 8 stream.val :: BitVec.ofNat 8 records.length ::
        (bigEndian 4 loss ++ (records.map recordBytes).flatten) := by
  simp only [dataReportPayload, List.cons_append, List.nil_append]

/-- Settles O47: what the transmitter starts and shows, and the layouts notice by notice and record by record. -/
theorem linkFrames : Obligations.LinkFrames := by
  refine ⟨fun rate => ?rate, fun s hrunning => ⟨fun hfree hnoReset => ?idle, fun r hr => ?reset, fun f hframe =>
    ⟨?busy, linkFrameComplete_eq hrunning hframe, htxd_sending hrunning hframe, htxd_sent hrunning hframe⟩⟩,
    fun s h => htxd_high h, fun list loss => ?notices, fun stream records loss => ?records⟩
  case rate => cases rate <;> rfl
  case idle =>
    have hidle := transmitterIdle_iff.2 ⟨hfree, hnoReset⟩
    refine ⟨fun reply rest => linkFrameStart_reply hrunning hidle, fun older report newer hreplies hactive hwindow hdue
      holder hseqs => ?_, fun hreplies hnone => linkFrameStart_nothing hrunning hreplies hnone⟩
    rw [linkFrameStart_report hwindow hseqs hrunning hidle hreplies hactive hdue holder,
      reportPayload_eq hwindow hseqs] <;> rfl
  case reset =>
    exact linkFrameStart_busy hrunning fun hidle => (transmitterIdle_iff.1 hidle).2 r hr
  case busy =>
    exact linkFrameStart_busy hrunning fun hidle => absurd (hframe.symm.trans (transmitterIdle_iff.1 hidle).1) nofun
  case notices =>
    rw [noticeReportPayload_eq]
    refine congrArg (fun l => 2 :: BitVec.ofNat 8 list.length :: (bigEndian 2 loss ++ List.flatten l))
      (List.map_congr_left fun x _ => ?_)
    rw [noticeBytes_eq]
    cases x.body <;> simp only [noticeField, mismatchDetail_eq] <;> rfl
  case records =>
    rw [dataReportPayload_eq]
    refine congrArg (fun l => 1 :: BitVec.ofNat 8 stream.val :: BitVec.ofNat 8 records.length ::
      (bigEndian 4 loss ++ List.flatten l)) (List.map_congr_left fun r _ => ?_)
    rw [recordBytes_eq]
    cases r.body <;> rfl

end Sys2Proof.Proofs
end

section
/-! PROOFS. Formation (R160 to R162), acknowledgement (R164, R165, R69, R74) and the retransmission timer (R166): O48 to
O50. -/

namespace Sys2Proof.Proofs

-- One theorem after another: elaborating them all at once costs a thread and its stack for each.
set_option Elab.async false

open Sys2Proof.Machine Sys2Proof.Laws

/-! ### Formation (R160 to R162) -/

section Formation

variable {s : State}

theorem exec_reportFormation (hrunning : s.held = false) :
    exec .reportFormation s = .next (if s.mayForm then s.form else s) := by
  rw [show exec .reportFormation s = execReportFormation s from rfl, execReportFormation, happen_running _ hrunning]

theorem mayForm_iff (hrunning : s.held = false) :
    s.mayForm = true ↔ s.reports.state = .active ∧ s.reports.window.length < 8 ∧
      (s.noticesToForm = true ∨ s.nextStream.isSome = true) := by
  simp only [State.mayForm, hrunning, Bool.and_eq_true, Bool.or_eq_true, beq_iff_eq, decide_eq_true_eq,
    Bool.not_false, true_and, and_assoc]
  rfl

theorem noticesToForm_iff : s.noticesToForm = true ↔ s.reports.notices ≠ [] ∨ 0 < s.reports.noticeLoss := by
  simp [State.noticesToForm]

theorem reportFormation_notices (hrunning : s.held = false) (hactive : s.reports.state = .active)
    (hroom : s.reports.window.length < 8) (hnotices : s.reports.notices ≠ [] ∨ 0 < s.reports.noticeLoss) :
    exec .reportFormation s = .next s.formNotices := by
  have hform := noticesToForm_iff.2 hnotices
  rw [exec_reportFormation hrunning, if_pos ((mayForm_iff hrunning).2 ⟨hactive, hroom, .inl hform⟩), State.form,
    if_pos hform]

/-- The first ready stream in turn (R162). -/
theorem nextStream_first {n : QueueNo} {earlier later : List QueueNo}
    (horder : servingOrder s.reports.lastServed = earlier ++ n :: later)
    (hearlier : ∀ m ∈ earlier, s.streamReady m = false) (hready : s.streamReady n = true) :
    s.nextStream = some n := by
  have hnone : earlier.find? s.streamReady = none :=
    List.find?_eq_none.2 fun m hm => Bool.eq_false_iff.1 (hearlier m hm)
  rw [State.nextStream, horder, List.find?_append, hnone, Option.none_or, List.find?_cons_of_pos hready]

theorem reportFormation_data (hrunning : s.held = false) (hactive : s.reports.state = .active)
    (hroom : s.reports.window.length < 8) (hnotices : s.reports.notices = []) (hloss : s.reports.noticeLoss = 0)
    {n : QueueNo} (hnext : s.nextStream = some n) : exec .reportFormation s = .next (s.formData n) := by
  have hform : ¬ s.noticesToForm = true := by simp [noticesToForm_iff, hnotices, hloss]
  rw [exec_reportFormation hrunning, if_pos ((mayForm_iff hrunning).2 ⟨hactive, hroom, .inr (by simp [hnext])⟩),
    State.form, if_neg hform, hnext]

theorem reportFormation_nothing (hrunning : s.held = false)
    (h : s.reports.state ≠ .active ∨ 8 ≤ s.reports.window.length ∨
      (s.reports.notices = [] ∧ s.reports.noticeLoss = 0 ∧ ∀ n, s.streamReady n = false)) :
    exec .reportFormation s = .next s := by
  have hnot : ¬ s.mayForm = true := by
    rw [mayForm_iff hrunning]
    rintro ⟨hactive, hroom, hsomething⟩
    rcases h with hother | hfull | ⟨hnotices, hloss, hready⟩
    · exact hother hactive
    · omega
    · have hnone : s.nextStream = none := List.find?_eq_none.2 fun n _ => Bool.eq_false_iff.1 (hready n)
      simp [noticesToForm_iff, hnotices, hloss, hnone] at hsomething
  rw [exec_reportFormation hrunning, if_neg hnot]

variable (n : QueueNo)

theorem formData_shape :
    s.formData n = { s with
      queues := (s.formData n).queues
      reports := { s.reports with
        window := s.reports.window ++
          [⟨s.reports.nextSeq, .data n (min (s.stream n).batch (s.queue n).waiting) (s.queue n).pendingLoss, true⟩]
        nextSeq := s.reports.nextSeq + 1
        lastServed := n
        streams := (s.formData n).reports.streams } } := rfl

theorem formData_queue (m : QueueNo) :
    (s.formData n).queue m = if m = n then formedQueue s n else s.queue m :=
  (show (s.formData n).queue m = (s.withQueue n (formedQueue s n)).queue m from rfl).trans (queue_withQueue_eq s n m _)

theorem formedQueue_hasNews : (formedQueue s n).hasNews = true ↔
    min (s.stream n).batch (s.queue n).waiting < (s.queue n).waiting := by
  have hloss : (formedQueue s n).pendingLoss = 0 := rfl
  have hwaiting : (formedQueue s n).waiting = (s.queue n).waiting - min (s.stream n).batch (s.queue n).waiting := by
    simp only [CaptureQueue.waiting, formedQueue, Nat.sub_sub]
  rw [CaptureQueue.hasNews, Bool.or_eq_true, decide_eq_true_iff, decide_eq_true_iff, hwaiting, hloss]
  omega

theorem formData_stream (m : QueueNo) :
    (s.formData n).stream m =
      if m = n then { s.stream n with
        flushPending := false
        holdStart := if min (s.stream n).batch (s.queue n).waiting < (s.queue n).waiting then some s.time.runClock
          else none }
      else s.stream m := by
  have hstreams : (s.formData n).stream m = (formedStreams s n).stream m := rfl
  rw [hstreams, formedStreams, stream_withStream_eq]
  by_cases hm : m = n
  · rw [if_pos hm, if_pos hm, formedStream, stream_withQueue, if_congr (formedQueue_hasNews n) rfl rfl]
  · rw [if_neg hm, if_neg hm, stream_withQueue_ne _ _ _ _ hm]

end Formation

/-- Settles O48: a notice report, a data report of the first ready stream in turn, or nothing. -/
theorem reportFormation : Obligations.ReportFormation := by
  refine fun s hrunning => ⟨fun hactive hroom => ⟨fun hnotices => ?notices,
    fun n earlier later hnotices hloss horder hearlier hready => ?data⟩, reportFormation_nothing hrunning⟩
  case notices =>
    rw [reportFormation_notices hrunning hactive hroom hnotices]
    rfl
  case data =>
    refine ⟨s.formData n, reportFormation_data hrunning hactive hroom hnotices hloss
      (nextStream_first horder hearlier hready), formData_shape n, ?_, fun m hm => ⟨?_, ?_⟩, ?_⟩
    · rw [formData_queue, if_pos rfl]
      rfl
    · rw [formData_queue, if_neg hm]
    · rw [formData_stream, if_neg hm]
    · rw [formData_stream, if_pos rfl]

/-! ### What a queue gets back, report by report (R69, R70) -/

/-- The queue of a data report, and no other, is written by `g`. -/
def writtenFor (g : Nat → Nat → CaptureQueue → CaptureQueue) (n : QueueNo) (q : CaptureQueue) (report : Report) :
    CaptureQueue :=
  match report.body with
  | .notices _ _ => q
  | .data m count loss => if m = n then g count loss q else q

/-- A report of the window is a data report of the stream. -/
def IsDataOf (n : QueueNo) (report : Report) : Prop := ∃ count loss, report.body = .data n count loss

/-- A change of the state report by report that writes the queue of each data report through `g`. -/
def Writes (f : State → Report → State) (g : Nat → Nat → CaptureQueue → CaptureQueue) : Prop :=
  ∀ s report, f s report = match report.body with
    | .notices _ _ => s
    | .data n count loss => s.withQueue n (g count loss (s.queue n))

theorem releaseReport_isWrites : Writes State.releaseReport fun count _ => CaptureQueue.release count := by
  intro s report
  rw [State.releaseReport] <;> cases report.body <;> rfl

theorem takeBackReport_isWrites : Writes State.takeBackReport fun _ loss => CaptureQueue.takeBack loss := by
  intro s report
  rw [State.takeBackReport] <;> cases report.body <;> rfl

section Writes

variable {f : State → Report → State} {g : Nat → Nat → CaptureQueue → CaptureQueue} (hf : Writes f g) {n : QueueNo}
  {report : Report} {s : State}

include hf

theorem Writes.queue : (f s report).queue n = writtenFor g n (s.queue n) report := by
  rw [hf, writtenFor]
  cases report.body with
  | notices list loss => rfl
  | data m count loss =>
    simp only [queue_withQueue_eq, eq_comm (a := n)]
    split
    next hm => rw [hm]
    next => rfl

theorem Writes.time : (f s report).time = s.time := by
  rw [hf]
  cases report.body <;> rfl

theorem Writes.stream (h : IsDataOf n report) :
    (f s report).stream n = { s.stream n with
      holdStart := holdStartAfter (writtenFor g n (s.queue n) report) (s.stream n).holdStart s.time.runClock } := by
  obtain ⟨count, loss, hbody⟩ := h
  rw [hf, writtenFor, hbody]
  simp only [stream_withQueue, if_true]

theorem Writes.stream_other (h : ¬ IsDataOf n report) : (f s report).stream n = s.stream n := by
  rw [hf]
  cases hbody : report.body with
  | notices list loss => rfl
  | data m count loss =>
    have hm : n ≠ m := fun hsame => h ⟨count, loss, by rw [hbody, hsame]⟩
    simp only [stream_withQueue_ne _ _ _ _ hm]

omit hf in
theorem writtenFor_other {q : CaptureQueue} (h : ¬ IsDataOf n report) : writtenFor g n q report = q := by
  rw [writtenFor]
  cases hbody : report.body with
  | notices list loss => rfl
  | data m count loss =>
    have hm : m ≠ n := fun hsame => h ⟨count, loss, by rw [hbody, hsame]⟩
    simp only [if_neg hm]

theorem Writes.queues (reports : List Report) (s : State) :
    (reports.foldl f s).queue n = reports.foldl (writtenFor g n) (s.queue n) := by
  induction reports generalizing s with
  | nil => rfl
  | cons report rest ih => rw [List.foldl_cons, List.foldl_cons, ih, hf.queue]

/-- Reports of other streams leave a queue and its stream. -/
theorem Writes.untouched (reports : List Report) (s : State) (h : ∀ report ∈ reports, ¬ IsDataOf n report) :
    (reports.foldl f s).stream n = s.stream n ∧ (reports.foldl f s).queue n = s.queue n := by
  induction reports generalizing s with
  | nil => exact ⟨rfl, rfl⟩
  | cons report rest ih =>
    obtain ⟨hstream, hqueue⟩ := ih (f s report) fun other hother => h other (List.mem_cons_of_mem report hother)
    have hfirst := h report List.mem_cons_self
    exact ⟨hstream.trans (hf.stream_other hfirst), hqueue.trans (hf.queue.trans (writtenFor_other hfirst))⟩

omit hf in
/-- A hold start that is set twice is set as the last queue says, where the news it began with is not new. -/
theorem holdStartAfter_twice {q q' : CaptureQueue} {held : Option Nat} {now : Nat}
    (h : q.hasNews = false → q'.hasNews = true → held = none) :
    holdStartAfter q' (holdStartAfter q held now) now = holdStartAfter q' held now := by
  cases hlast : q'.hasNews with
  | false => simp [holdStartAfter, hlast]
  | true =>
    cases hfirst : q.hasNews with
    | false => simp [holdStartAfter, hlast, hfirst, h hfirst hlast]
    | true => simp [holdStartAfter, hlast, hfirst]

/-- The stream of a queue that reports write to: its hold starts where the last of them leaves news (R156). The
hypothesis keeps, from each queue and hold start to the next, that a hold start is absent where news begins. -/
theorem Writes.touched {P : CaptureQueue → Option Nat → Prop} {now : Nat}
    (hkept : ∀ count loss q held, P q held → P (g count loss q) (holdStartAfter (g count loss q) held now))
    (hlast : ∀ count loss q held, P q held → ∀ reports : List Report,
      (g count loss q).hasNews = false → (reports.foldl (writtenFor g n) (g count loss q)).hasNews = true →
      held = none)
    (reports : List Report) (s : State) (hnow : s.time.runClock = now)
    (hP : P (s.queue n) (s.stream n).holdStart) (h : ∃ report ∈ reports, IsDataOf n report) :
    (reports.foldl f s).stream n = { s.stream n with
      holdStart := holdStartAfter ((reports.foldl f s).queue n) (s.stream n).holdStart s.time.runClock } := by
  induction reports generalizing s with
  | nil => exact absurd h (by simp)
  | cons report rest ih =>
    rw [List.foldl_cons]
    have htime : (f s report).time = s.time := hf.time
    by_cases hfirst : IsDataOf n report
    · obtain ⟨count, loss, hbody⟩ := id hfirst
      have hqueue : (f s report).queue n = g count loss (s.queue n) := by
        rw [hf.queue, writtenFor, hbody]
        simp only [if_true]
      have hstream := hf.stream (s := s) hfirst
      rw [← hf.queue] at hstream
      by_cases hrest : ∃ other ∈ rest, IsDataOf n other
      · have hPnext : P ((f s report).queue n) ((f s report).stream n).holdStart := by
          rw [hstream, hqueue, hnow]
          exact hkept count loss _ _ hP
        rw [ih (f s report) (by rw [htime, hnow]) hPnext hrest, hstream, htime, hqueue, holdStartAfter_twice]
        intro hnone hnews
        refine hlast count loss _ _ hP rest hnone ?_
        rwa [hf.queues, hqueue] at hnews
      · obtain ⟨hsame, hsameQueue⟩ := hf.untouched rest (f s report) fun other hother hdata => hrest ⟨other, hother, hdata⟩
        rw [hsame, hsameQueue, hstream]
    · have hrest : ∃ other ∈ rest, IsDataOf n other := by
        obtain ⟨other, hother, hdata⟩ := h
        rcases List.mem_cons.1 hother with rfl | hother
        · exact absurd hdata hfirst
        · exact ⟨other, hother, hdata⟩
      have hsame := hf.stream_other (s := s) hfirst
      have hqueue : (f s report).queue n = s.queue n := hf.queue.trans (writtenFor_other hfirst)
      rw [ih (f s report) (by rw [htime, hnow]) (by rwa [hqueue, hsame]) hrest, hsame, htime]

end Writes

/-! ### Acknowledged records leave the front of their queue (R69, R74) -/

/-- A queue after the first records, so many, were acknowledged. -/
def releasedQueue (q : CaptureQueue) (count : Nat) : CaptureQueue :=
  { q with
    records := q.records.drop count
    inFlight := q.inFlight - count
    acknowledged := q.acknowledged + BitVec.ofNat 32 count
    armed := q.armed || (decide (0 < count) && decide (q.records.length - count ≤ q.depth / 2)) }

theorem release_eq_released {q : CaptureQueue} {count : Nat} (hcount : count ≤ q.inFlight)
    (hrun : q.inFlight ≤ q.records.length) : q.release count = releasedQueue q count := by
  rw [CaptureQueue.release, releasedQueue, Nat.min_eq_left hcount]
  simp only [List.length_drop, Nat.sub_sub_self (hcount.trans hrun)]

theorem releasedQueue_zero (q : CaptureQueue) : releasedQueue q 0 = q := by
  simp [releasedQueue]

theorem releasedQueue_add (q : CaptureQueue) (a b : Nat) :
    releasedQueue (releasedQueue q a) b = releasedQueue q (a + b) := by
  have harmed : ((q.armed || (decide (0 < a) && decide (q.records.length - a ≤ q.depth / 2))) ||
      (decide (0 < b) && decide (q.records.length - a - b ≤ q.depth / 2))) =
      (q.armed || (decide (0 < a + b) && decide (q.records.length - (a + b) ≤ q.depth / 2))) := by
    rw [Bool.eq_iff_iff]
    simp only [Bool.or_eq_true, Bool.and_eq_true, decide_eq_true_eq, or_assoc]
    refine or_congr_right ?_
    omega
  simp only [releasedQueue, List.drop_drop, List.length_drop, Nat.sub_sub, BitVec.ofNat_add, ← add_assoc] at harmed ⊢
  rw [harmed]

theorem releasedQueues {n : QueueNo} (reports : List Report) (q : CaptureQueue)
    (hcount : olderCount n reports ≤ q.inFlight) (hrun : q.inFlight ≤ q.records.length) :
    reports.foldl (writtenFor (fun count _ => CaptureQueue.release count) n) q =
      releasedQueue q (olderCount n reports) := by
  induction reports generalizing q with
  | nil => exact (releasedQueue_zero q).symm
  | cons report rest ih =>
    rw [olderCount_cons] at hcount ⊢
    have hfirst : writtenFor (fun count _ => CaptureQueue.release count) n q report =
        releasedQueue q (heldBy n report.body) := by
      rw [writtenFor]
      cases hbody : report.body with
      | notices list loss => exact (releasedQueue_zero q).symm
      | data m count loss =>
        rw [hbody] at hcount
        simp only [heldBy] at hcount ⊢
        by_cases hm : m = n
        · simp only [if_pos hm] at hcount ⊢
          exact release_eq_released (by omega) hrun
        · simp only [if_neg hm, releasedQueue_zero]
    rw [List.foldl_cons, hfirst, ih, releasedQueue_add]
    · simp only [releasedQueue]
      omega
    · simp only [releasedQueue, List.length_drop]
      omega

/-- An acknowledgement leaves the news of a queue: what waits, and the loss. -/
theorem release_hasNews {q : CaptureQueue} (hrun : q.inFlight ≤ q.records.length) (count : Nat) :
    (q.release count).hasNews = q.hasNews := by
  have hwaiting : (q.release count).waiting = q.waiting := by
    simp only [CaptureQueue.waiting, CaptureQueue.release, List.length_drop]
    omega
  simp only [CaptureQueue.hasNews, hwaiting]
  rfl

theorem release_run {q : CaptureQueue} (hrun : q.inFlight ≤ q.records.length) (count : Nat) :
    (q.release count).inFlight ≤ (q.release count).records.length := by
  simp only [CaptureQueue.release, List.length_drop]
  omega

theorem releases_hasNews {n : QueueNo} (reports : List Report) {q : CaptureQueue}
    (hrun : q.inFlight ≤ q.records.length) :
    (reports.foldl (writtenFor (fun count _ => CaptureQueue.release count) n) q).hasNews = q.hasNews := by
  induction reports generalizing q with
  | nil => rfl
  | cons report rest ih =>
    have hstep : (writtenFor (fun count _ => CaptureQueue.release count) n q report).hasNews = q.hasNews ∧
        (writtenFor (fun count _ => CaptureQueue.release count) n q report).inFlight ≤
          (writtenFor (fun count _ => CaptureQueue.release count) n q report).records.length := by
      rw [writtenFor]
      split
      · exact ⟨rfl, hrun⟩
      · split
        · exact ⟨release_hasNews hrun _, release_run hrun _⟩
        · exact ⟨rfl, hrun⟩
    rw [List.foldl_cons, ih hstep.2, hstep.1]

section Acknowledge

variable {s : State} {seq : Byte}

theorem acknowledge_stray (h : ∀ report ∈ s.reports.window, report.seq ≠ seq) :
    s.acknowledge seq = { s with reports := { s.reports with strays := s.reports.strays + 1 } } := by
  have hnone : (s.reports.window.findIdx? fun report => report.seq == seq) = none := by
    rw [List.findIdx?_eq_none_iff]
    exact fun report hreport => beq_false_of_ne (h report hreport)
  rw [State.acknowledge, hnone]

variable {older newer : List Report} {report : Report}

theorem acknowledge_named (hwindow : s.reports.window = older ++ report :: newer) (hseq : report.seq = seq)
    (holder : ∀ other ∈ older, other.seq ≠ seq) :
    s.acknowledge seq = afterAck s older.length ((older ++ [report]).foldl State.releaseReport s) := by
  have hnone : (older.findIdx? fun report => report.seq == seq) = none := by
    rw [List.findIdx?_eq_none_iff]
    exact fun other hother => beq_false_of_ne (holder other hother)
  have hfound : (s.reports.window.findIdx? fun report => report.seq == seq) = some older.length := by
    rw [hwindow, List.findIdx?_append, hnone]
    simp [List.findIdx?_cons, hseq]
  have htaken : s.reports.window.take (older.length + 1) = older ++ [report] := by
    rw [hwindow, show older ++ report :: newer = (older ++ [report]) ++ newer by simp]
    exact List.take_left' (by simp)
  rw [State.acknowledge, hfound]
  simp only [htaken]
  rfl

theorem window_left (hwindow : s.reports.window = older ++ report :: newer) :
    s.reports.window.drop (older.length + 1) = newer := by
  rw [hwindow, show older ++ report :: newer = (older ++ [report]) ++ newer by simp]
  exact List.drop_left' (by simp)

/-- What an acknowledgement leaves of everything but queues and streams. -/
theorem afterAck_shape (hwindow : s.reports.window = older ++ report :: newer) {t : State} (hwrites : QueueWrites s t) :
    afterAck s older.length t = { s with
      queues := t.queues
      reports := { s.reports with
        window := newer
        retries := 0
        timer := if s.reports.state = .silent ∨ newer = [] then none
                 else some (s.time.runClock + s.reports.timeout * 1000)
        state := if s.reports.state = .stalled then .active else s.reports.state
        streams := t.reports.streams } } := by
  obtain ⟨queues, streams, rfl⟩ := hwrites
  rw [afterAck, window_left hwindow, ReportUnit.restartedTimer]

end Acknowledge

/-- Settles O49: the frame byte by byte, and the released reports one by one. -/
theorem acknowledgement : Obligations.Acknowledgement := by
  intro s seq ignored hrunning hhunt hignored
  have hframe := runFrame hrunning hhunt kindAck seq hignored
  rw [frameTaken_ack] at hframe
  refine ⟨fun hstray => ?stray, fun older newer report hwindow hseq holder hflight => ?named⟩
  case stray => rw [hframe, acknowledge_stray hstray]
  case named =>
    have hacknowledged := acknowledge_named hwindow hseq holder
    rw [afterAck_shape hwindow (QueueWrites.foldl releaseReport_writes (older ++ [report]) s)] at hacknowledged
    refine ⟨s.acknowledge seq, hframe, ?_, fun n => ?_⟩
    · rw [hacknowledged]
    obtain ⟨hcount, hrun⟩ := hflight n
    have hqueueOf : (s.acknowledge seq).queue n = ((older ++ [report]).foldl State.releaseReport s).queue n := by
      rw [hacknowledged]
      rfl
    have hstreamOf : (s.acknowledge seq).stream n = ((older ++ [report]).foldl State.releaseReport s).stream n := by
      rw [hacknowledged]
      rfl
    refine ⟨fun hdata => ?_, fun hother => ?_, ?_⟩
    · rw [hqueueOf, hstreamOf]
      refine releaseReport_isWrites.touched (P := fun q _ => q.inFlight ≤ q.records.length) (now := s.time.runClock)
        (fun count _ q _ h => release_run h count) (fun count _ q held h reports hnone hnews => ?_) _ s rfl hrun hdata
      rw [releases_hasNews reports (release_run h count), hnone] at hnews
      cases hnews
    · rw [hstreamOf]
      exact (releaseReport_isWrites.untouched _ s fun other hmem ⟨count, loss, hbody⟩ =>
        hother other hmem count loss hbody).1
    · rw [hqueueOf, releaseReport_isWrites.queues, releasedQueues _ _ hcount hrun]
      rfl

/-! ### The retransmission timer (R166) -/

theorem exec_retransmitTimeout {s : State} (hrunning : s.held = false) :
    exec .retransmitTimeout s = .next (if s.retransmitDue then { s with reports := s.reports.timeOut } else s) := by
  rw [show exec .retransmitTimeout s = execRetransmitTimeout s from rfl, execRetransmitTimeout,
    happen_running _ hrunning]

theorem retransmitDue_iff {s : State} {moment : Nat} (htimer : s.reports.timer = some moment) :
    s.retransmitDue = true ↔ s.reports.state = .active ∧ moment ≤ s.time.runClock := by
  simp [State.retransmitDue, htimer, reached_iff]

/-- Settles O50: the timer runs out in ACTIVE at its moment, and not before. -/
theorem retransmitTimeout : Obligations.RetransmitTimeout := by
  refine fun s moment hrunning htimer => ⟨fun hactive hreached => ?_, fun hnot => ?_⟩
  · rw [exec_retransmitTimeout hrunning, if_pos ((retransmitDue_iff htimer).2 ⟨hactive, hreached⟩),
      ReportUnit.timeOut]
    rfl
  · rw [exec_retransmitTimeout hrunning, if_neg]
    rw [retransmitDue_iff htimer]
    rintro ⟨hactive, hreached⟩
    rcases hnot with hearly | hother
    · omega
    · exact hother hactive

end Sys2Proof.Proofs
end

section
/-! PROOFS. START_REPORTS, STOP_REPORTS and RESYNC (R168, R169), and the streams' requests and readiness (R156 to R159):
O51 and O52. -/

namespace Sys2Proof.Proofs

-- One theorem after another: elaborating them all at once costs a thread and its stack for each.
set_option Elab.async false

open Sys2Proof.Machine Sys2Proof.Laws

/-! ### START_REPORTS and STOP_REPORTS (R168) -/

theorem markAll_eq (due : Bool) (window : List Report) :
    markAll due window = window.map fun report => { report with due } := rfl

section StartReports

variable {s : State} {r : Request} {rest : List Request} {timeout limit : Nat}

theorem exec_startReports (s : State) :
    exec .startReports s = s.happen (State.carryOut .startReports ruleStartReports) := rfl

theorem exec_stopReports (s : State) :
    exec .stopReports s = s.happen (State.carryOut .stopReports ruleStopReports) := rfl

/-- A byte of R173's list that counts takes its default at FFh. -/
theorem countOf_byte {n : Nat} (h : n < 256) (default : Nat) :
    (orDefault default (fun b => some b.toNat) (BitVec.ofNat 8 n)).getD default = if n = 255 then default else n := by
  have hvalue : (BitVec.ofNat 8 n).toNat = n := by
    rw [BitVec.toNat_ofNat]
    omega
  have hbyte : BitVec.ofNat 8 n = 0xFF ↔ n = 255 := by
    rw [← BitVec.toNat_inj, hvalue]
    rfl
  rw [orDefault]
  by_cases hdefault : n = 255
  · rw [if_pos (hbyte.2 hdefault), if_pos hdefault, Option.getD_some]
  · rw [if_neg fun h => hdefault (hbyte.1 h), if_neg hdefault, Option.getD_some, hvalue]

theorem ruleStartReports_eq (htimeout : timeout < 65536) (hlimit : limit < 256) (s : State) :
    ruleStartReports (bigEndian 2 timeout ++ [BitVec.ofNat 8 limit]) s =
      if (if timeout = 65535 then 200 else timeout) < 10 ∨ (if timeout = 65535 then 200 else timeout) > 2000 ∨
          (if limit = 255 then 3 else limit) < 1 ∨ (if limit = 255 then 3 else limit) > 8 then .refuse .range
      else if s.reports.state ≠ .silent then .refuse .state
      else
        .ok { s with reports := { s.reports with
            timeout := if timeout = 65535 then 200 else timeout
            retryLimit := if limit = 255 then 3 else limit
            state := .active, retries := 0
            window := s.reports.window.map fun report => { report with due := true } } }
          [BitVec.ofNat 8 s.reports.window.length] := by
  have hread : numberAt (bigEndian 2 timeout ++ [BitVec.ofNat 8 limit]) 0 2 = timeout :=
    numberAt_append [] [BitVec.ofNat 8 limit] 2 timeout htimeout
  have hbyte : byteAt (bigEndian 2 timeout ++ [BitVec.ofNat 8 limit]) 2 = BitVec.ofNat 8 limit := rfl
  rw [ruleStartReports, hread, hbyte, countOf_byte hlimit, bigEndian_one]
  rfl

theorem startReports_length :
    (0x60 :: (bigEndian 2 timeout ++ [BitVec.ofNat 8 limit])).length = requestLength .startReports := by
  simp
  rfl

theorem startReports_refused (h : s.Offers r rest)
    (hp : r.payload = 0x60 :: (bigEndian 2 timeout ++ [BitVec.ofNat 8 limit])) {status : Status}
    (hrule : ruleStartReports (bigEndian 2 timeout ++ [BitVec.ofNat 8 limit]) (s.startExecuting r) = .refuse status) :
    exec .startReports s = .next { s with link := s.link.replied r status [] } := by
  rw [exec_startReports]
  exact row_refused h hp rfl startReports_length rfl hrule

theorem startReports_accepted (h : s.Offers r rest) (htimeout : timeout < 65536) (hlimit : limit < 256)
    (hp : r.payload = 0x60 :: (bigEndian 2 timeout ++ [BitVec.ofNat 8 limit]))
    (hwanted : 10 ≤ (if timeout = 65535 then 200 else timeout))
    (hwanted' : (if timeout = 65535 then 200 else timeout) ≤ 2000) (hmost : 1 ≤ (if limit = 255 then 3 else limit))
    (hmost' : (if limit = 255 then 3 else limit) ≤ 8) :
    exec .startReports s = .next (
      if s.reports.state = .silent then { s with
        reports := { s.reports with
          timeout := if timeout = 65535 then 200 else timeout
          retryLimit := if limit = 255 then 3 else limit
          state := .active, retries := 0
          window := s.reports.window.map (fun report => { report with due := true }) }
        link := s.link.replied r .ok [BitVec.ofNat 8 s.reports.window.length] }
      else { s with link := s.link.replied r .state [] }) := by
  have hrule := ruleStartReports_eq htimeout hlimit (s.startExecuting r)
  rw [if_neg (by omega), startExecuting_reports] at hrule
  by_cases hsilent : s.reports.state = .silent
  · rw [if_neg (not_not_intro hsilent)] at hrule
    have hnext := row_ok h hp rfl startReports_length rfl hrule rfl
    rw [exec_startReports, if_pos hsilent]
    exact hnext
  · rw [if_pos hsilent] at hrule
    rw [if_neg hsilent]
    exact startReports_refused h hp hrule

theorem startReports_range (h : s.Offers r rest) (htimeout : timeout < 65536) (hlimit : limit < 256)
    (hp : r.payload = 0x60 :: (bigEndian 2 timeout ++ [BitVec.ofNat 8 limit]))
    (hout : (if timeout = 65535 then 200 else timeout) < 10 ∨ 2000 < (if timeout = 65535 then 200 else timeout) ∨
      (if limit = 255 then 3 else limit) < 1 ∨ 8 < (if limit = 255 then 3 else limit)) :
    exec .startReports s = .next { s with link := s.link.replied r .range [] } :=
  startReports_refused h hp ((ruleStartReports_eq htimeout hlimit _).trans (if_pos hout))

theorem stopReports_answers (h : s.Offers r rest) (hp : r.payload = [0x61]) :
    exec .stopReports s = .next { s with
      reports := { s.reports with
        state := .silent, timer := none
        window := s.reports.window.map (fun report => { report with due := false }) }
      link := s.link.replied r .ok [] } := by
  have hrule : ruleStopReports [] (s.startExecuting r) = .ok { s.startExecuting r with
      reports := { s.reports with
        state := .silent, timer := none
        window := s.reports.window.map (fun report => { report with due := false }) } } [] := rfl
  have hnext := row_ok h hp rfl rfl rfl hrule rfl
  rw [exec_stopReports]
  exact hnext

end StartReports

/-! ### RESYNC (R169, R70, R72) -/

section Resync

variable {s : State} {r : Request} {rest : List Request} {n : QueueNo}

/-- The losses of a stream that the reports carry (R72). -/
def lossOf (n : QueueNo) (reports : List Report) : Nat :=
  (reports.map fun report =>
    match report.body with
    | .notices _ _ => 0
    | .data m _ loss => if m = n then loss else 0).sum

/-- A queue that got its records and its loss back. -/
def takenBack (q : CaptureQueue) (lost : Nat) : CaptureQueue :=
  { q with inFlight := 0, pendingLoss := min 4294967295 (q.pendingLoss + lost) }

theorem takeBack_eq (q : CaptureQueue) (loss : Nat) : q.takeBack loss = takenBack q loss := rfl

theorem takenBack_add (q : CaptureQueue) (a b : Nat) : takenBack (takenBack q a) b = takenBack q (a + b) := by
  simp only [takenBack]
  congr 1
  omega

theorem lossOf_cons (n : QueueNo) (report : Report) (reports : List Report) :
    lossOf n (report :: reports) = (match report.body with
      | .notices _ _ => 0
      | .data m _ loss => if m = n then loss else 0) + lossOf n reports := by
  simp only [lossOf, List.map_cons, List.sum_cons]

theorem lossOf_none (reports : List Report) (h : ∀ report ∈ reports, ¬ IsDataOf n report) : lossOf n reports = 0 := by
  refine List.sum_eq_zero fun loss hloss => ?_
  obtain ⟨report, hreport, rfl⟩ := List.mem_map.1 hloss
  cases hbody : report.body with
  | notices list loss => rfl
  | data m count loss =>
    exact if_neg fun hm => h report hreport ⟨count, loss, by rw [hbody, hm]⟩

theorem written_none {g : Nat → Nat → CaptureQueue → CaptureQueue} (reports : List Report)
    (h : ∀ report ∈ reports, ¬ IsDataOf n report) (q : CaptureQueue) : reports.foldl (writtenFor g n) q = q := by
  induction reports with
  | nil => rfl
  | cons report rest ih =>
    rw [List.foldl_cons, writtenFor_other (h report List.mem_cons_self)]
    exact ih fun other hother => h other (List.mem_cons_of_mem report hother)

/-- The queue of a stream with a data report in the window gets everything back at once. -/
theorem takenBacks (reports : List Report) (q : CaptureQueue) (h : ∃ report ∈ reports, IsDataOf n report) :
    reports.foldl (writtenFor (fun _ loss => CaptureQueue.takeBack loss) n) q = takenBack q (lossOf n reports) := by
  induction reports generalizing q with
  | nil => exact absurd h (by simp)
  | cons report rest ih =>
    rw [List.foldl_cons, lossOf_cons]
    by_cases hfirst : IsDataOf n report
    · obtain ⟨count, loss, hbody⟩ := id hfirst
      have hstep : writtenFor (fun _ loss => CaptureQueue.takeBack loss) n q report = takenBack q loss := by
        rw [writtenFor, hbody]
        simp only [if_true, takeBack_eq]
      simp only [hstep, hbody, if_true]
      by_cases hrest : ∃ other ∈ rest, IsDataOf n other
      · rw [ih _ hrest, takenBack_add]
      · have hnone : ∀ other ∈ rest, ¬ IsDataOf n other := fun other hother hdata => hrest ⟨other, hother, hdata⟩
        rw [written_none rest hnone, lossOf_none rest hnone, Nat.add_zero]
    · have hrest : ∃ other ∈ rest, IsDataOf n other := by
        obtain ⟨other, hother, hdata⟩ := h
        rcases List.mem_cons.1 hother with rfl | hother
        · exact absurd hdata hfirst
        · exact ⟨other, hother, hdata⟩
      have hzero := lossOf_none [report] (n := n) (by simpa using hfirst)
      rw [lossOf_cons] at hzero
      rw [writtenFor_other hfirst, ih q hrest]
      congr 1
      omega

theorem takeBack_hasNews {q : CaptureQueue} (loss : Nat) (h : (q.takeBack loss).hasNews = false) :
    q.hasNews = false := by
  have hwaiting : (q.takeBack loss).waiting = q.records.length - 0 := rfl
  have hloss : (q.takeBack loss).pendingLoss = min 4294967295 (q.pendingLoss + loss) := rfl
  rw [CaptureQueue.hasNews, Bool.or_eq_false_iff, decide_eq_false_iff_not, decide_eq_false_iff_not] at h ⊢
  rw [hwaiting, hloss] at h
  rw [CaptureQueue.waiting]
  omega

/-- What RESYNC leaves of everything but queues and streams. -/
theorem discardWindow_shape (s : State) :
    s.discardWindow = { s with
      queues := s.discardWindow.queues
      reports := { s.reports with
        notices := (windowNotices s.reports.window ++ s.reports.notices).take 64
        noticeLoss := min 65535 (s.reports.noticeLoss + (windowNoticeLoss s.reports.window +
          ((windowNotices s.reports.window ++ s.reports.notices).length - 64)))
        window := [], nextSeq := 0, retries := 0, timer := none
        state := if s.reports.state = .stalled then .active else s.reports.state
        streams := s.discardWindow.reports.streams } } := by
  obtain ⟨queues, streams, hwrites⟩ := QueueWrites.foldl takeBackReport_writes s.reports.window s
  simp only [State.discardWindow, hwrites]
  rfl

theorem discardWindow_queue (s : State) (n : QueueNo) :
    s.discardWindow.queue n = (s.reports.window.foldl State.takeBackReport s).queue n := rfl

theorem discardWindow_stream (s : State) (n : QueueNo) :
    s.discardWindow.stream n = (s.reports.window.foldl State.takeBackReport s).stream n := rfl

/-- A stream with a data report in the window, where its hold start stands exactly over news. -/
theorem discardWindow_touched (hnews : (s.stream n).holdStart.isSome = (s.queue n).hasNews)
    (h : ∃ report ∈ s.reports.window, IsDataOf n report) :
    s.discardWindow.queue n = takenBack (s.queue n) (lossOf n s.reports.window) ∧
      s.discardWindow.stream n = { s.stream n with
        holdStart := holdStartAfter (s.discardWindow.queue n) (s.stream n).holdStart s.time.runClock } := by
  refine ⟨?_, ?_⟩
  · rw [discardWindow_queue, takeBackReport_isWrites.queues, takenBacks _ _ h]
  · rw [discardWindow_queue, discardWindow_stream]
    refine takeBackReport_isWrites.touched (P := fun q held => held.isSome = q.hasNews) (now := s.time.runClock)
      (fun count loss q held _ => holdStartAfter_isSome _ _ _) (fun count loss q held hheld reports hnone _ => ?_) _ s
      rfl hnews h
    rw [takeBack_hasNews loss hnone] at hheld
    exact Option.not_isSome_iff_eq_none.1 (by rw [hheld]; exact nofun)

theorem exec_resync (s : State) :
    exec .resync s = s.happen (State.carryOut .resync fun _ s =>
      .ok s.discardWindow (bigEndian 1 s.reports.window.length)) := rfl

theorem resync_answers (h : s.Offers r rest) (hp : r.payload = [0x62]) :
    exec .resync s = .next { (s.startExecuting r).discardWindow with
      link := s.link.replied r .ok [BitVec.ofNat 8 s.reports.window.length] } := by
  have hnext := row_ok (rule := fun _ s => .ok s.discardWindow (bigEndian 1 s.reports.window.length)) h hp rfl rfl rfl
    rfl (discardWindow_link _)
  rw [bigEndian_one] at hnext
  rw [exec_resync]
  exact hnext

end Resync

/-- Settles O51: the two reporting requests by their rules, RESYNC report by report. -/
theorem reportingControl : Obligations.ReportingControl := by
  refine fun s r rest h => ⟨fun timeout limit htimeout hlimit hp =>
    ⟨startReports_accepted h htimeout hlimit hp, startReports_range h htimeout hlimit hp⟩,
    stopReports_answers h, fun hsound hp => ⟨_, resync_answers h hp, ?shape, fun n => ⟨fun hdata => ?touched,
    fun hother => ?untouched⟩⟩⟩
  case shape =>
    rw [discardWindow_shape]
    rfl
  case touched =>
    exact discardWindow_touched (s := s.startExecuting r) (hsound.streams n).news hdata
  case untouched =>
    obtain ⟨hstream, hqueue⟩ := takeBackReport_isWrites.untouched (n := n) s.reports.window (s.startExecuting r)
      fun report hreport ⟨count, loss, hbody⟩ => hother report hreport count loss hbody
    exact ⟨hqueue, hstream⟩

/-! ### SUBSCRIBE, UNSUBSCRIBE and FLUSH (R158, R159) -/

section Streams

variable {s : State} {r : Request} {rest : List Request} {n : QueueNo} {number : Byte}

theorem exec_subscribe (s : State) : exec .subscribe s = s.happen (State.carryOut .subscribe ruleSubscribe) := rfl

theorem exec_unsubscribe (s : State) :
    exec .unsubscribe s = s.happen (State.carryOut .unsubscribe ruleUnsubscribe) := rfl

theorem exec_flush (s : State) : exec .flush s = s.happen (State.carryOut .flush ruleFlush) := rfl

theorem subscribe_range (h : s.Offers r rest) (hout : 12 < number.toNat) {fields : List Byte}
    (hfields : fields.length = 3) (hp : r.payload = 0x63 :: number :: fields) :
    exec .subscribe s = .next { s with link := s.link.replied r .range [] } := by
  rw [exec_subscribe]
  refine row_refused h hp rfl (by simp only [List.length_cons, hfields]; rfl) rfl ?_
  rw [ruleSubscribe, show byteAt (number :: fields) 0 = number from rfl, queueOf_eq_none hout]

theorem unsubscribe_range (h : s.Offers r rest) (hout : 12 < number.toNat) (hp : r.payload = [0x64, number]) :
    exec .unsubscribe s = .next { s with link := s.link.replied r .range [] } := by
  rw [exec_unsubscribe]
  refine row_refused h hp rfl rfl rfl ?_
  rw [ruleUnsubscribe, show byteAt [number] 0 = number from rfl, queueOf_eq_none hout]

theorem flush_range (h : s.Offers r rest) (hout : 12 < number.toNat) (hnotAll : number.toNat < 255)
    (hp : r.payload = [0x65, number]) :
    exec .flush s = .next { s with link := s.link.replied r .range [] } := by
  rw [exec_flush]
  refine row_refused h hp rfl rfl rfl ?_
  rw [ruleFlush, show byteAt [number] 0 = number from rfl, queueOf_eq_none hout]
  exact if_neg (Nat.ne_of_lt hnotAll)

theorem ruleSubscribe_eq {batch hold : Nat} (hbatch : batch < 256) (hhold : hold < 65536) (n : QueueNo) (s : State) :
    ruleSubscribe (BitVec.ofNat 8 n.val :: BitVec.ofNat 8 batch :: bigEndian 2 hold) s =
      if 1 ≤ (if batch = 255 then 12 else batch) ∧ (if batch = 255 then 12 else batch) ≤ 12 ∧
          (if hold = 65535 then 50 else hold) ≤ 1000 then
        .ok (s.withStream n { s.stream n with
          subscribed := true
          batch := if batch = 255 then 12 else batch
          hold := if hold = 65535 then 50 else hold }) []
      else .refuse .range := by
  have hread : numberAt (BitVec.ofNat 8 n.val :: BitVec.ofNat 8 batch :: bigEndian 2 hold) 2 2 = hold := by
    simpa using numberAt_append [BitVec.ofNat 8 n.val, BitVec.ofNat 8 batch] [] 2 hold hhold
  rw [ruleSubscribe, hread,
    show byteAt (BitVec.ofNat 8 n.val :: BitVec.ofNat 8 batch :: bigEndian 2 hold) 0 = BitVec.ofNat 8 n.val from rfl,
    show byteAt (BitVec.ofNat 8 n.val :: BitVec.ofNat 8 batch :: bigEndian 2 hold) 1 = BitVec.ofNat 8 batch from rfl,
    queueOf_ofNat, countOf_byte hbatch, orDefault16]
  dsimp only
  by_cases hin : 1 ≤ (if batch = 255 then 12 else batch) ∧ (if batch = 255 then 12 else batch) ≤ 12 ∧
      (if hold = 65535 then 50 else hold) ≤ 1000
  · rw [if_pos hin, if_neg (by omega)]
  · rw [if_neg hin, if_pos (by omega)]

theorem subscribe_eq (h : s.Offers r rest) {batch hold : Nat} (hbatch : batch < 256) (hhold : hold < 65536)
    (hp : r.payload = 0x63 :: BitVec.ofNat 8 n.val :: BitVec.ofNat 8 batch :: bigEndian 2 hold) :
    exec .subscribe s = .next (
      if 1 ≤ (if batch = 255 then 12 else batch) ∧ (if batch = 255 then 12 else batch) ≤ 12 ∧
          (if hold = 65535 then 50 else hold) ≤ 1000 then
        { s.withStream n { s.stream n with
            subscribed := true
            batch := if batch = 255 then 12 else batch
            hold := if hold = 65535 then 50 else hold } with
          link := s.link.replied r .ok [] }
      else { s with link := s.link.replied r .range [] }) := by
  have hlength : (0x63 :: BitVec.ofNat 8 n.val :: BitVec.ofNat 8 batch :: bigEndian 2 hold).length =
      requestLength .subscribe := by
    simp
    rfl
  have hrule := ruleSubscribe_eq hbatch hhold n (s.startExecuting r)
  rw [exec_subscribe]
  by_cases hin : 1 ≤ (if batch = 255 then 12 else batch) ∧ (if batch = 255 then 12 else batch) ≤ 12 ∧
      (if hold = 65535 then 50 else hold) ≤ 1000
  · rw [if_pos hin] at hrule ⊢
    have hnext := row_ok h hp rfl hlength rfl hrule rfl
    exact hnext
  · rw [if_neg hin] at hrule ⊢
    exact row_refused h hp rfl hlength rfl hrule

theorem unsubscribe_answers (h : s.Offers r rest) (hp : r.payload = [0x64, BitVec.ofNat 8 n.val]) :
    exec .unsubscribe s = .next
      { s.withStream n { s.stream n with subscribed := false, flushPending := false } with
        link := s.link.replied r .ok [] } := by
  have hrule : ruleUnsubscribe [BitVec.ofNat 8 n.val] (s.startExecuting r) =
      .ok ((s.startExecuting r).withStream n { s.stream n with subscribed := false, flushPending := false }) [] := by
    rw [ruleUnsubscribe, show byteAt [BitVec.ofNat 8 n.val] 0 = BitVec.ofNat 8 n.val from rfl, queueOf_ofNat] <;> rfl
  have hnext := row_ok h hp rfl rfl rfl hrule rfl
  rw [exec_unsubscribe]
  exact hnext

/-! FLUSH, stream by stream. -/

/-- A stream takes flush pending yes (R159). -/
def flushOne (s : State) (n : QueueNo) : State := s.withStream n { s.stream n with flushPending := true }

theorem flushStreams_eq (s : State) (named : List QueueNo) :
    s.flushStreams named = (named.filter s.flushable).foldl flushOne s := rfl

theorem flushes_shape (l : List QueueNo) (s : State) :
    l.foldl flushOne s = { s with reports := { s.reports with streams := (l.foldl flushOne s).reports.streams } } := by
  induction l generalizing s with
  | nil => rfl
  | cons n rest ih =>
    rw [List.foldl_cons, ih (flushOne s n)]
    rfl

theorem flushes_stream (m : QueueNo) (l : List QueueNo) (s : State) :
    (l.foldl flushOne s).stream m =
      { s.stream m with flushPending := (s.stream m).flushPending || decide (m ∈ l) } := by
  induction l generalizing s with
  | nil => simp
  | cons n rest ih =>
    rw [List.foldl_cons, ih, flushOne, stream_withStream_eq]
    by_cases hm : m = n
    · simp [hm]
    · simp [hm]

theorem flushable_eq (s : State) (m : QueueNo) :
    s.flushable m = ((s.stream m).subscribed && (s.queue m).hasNews) := rfl

theorem ruleFlush_one (n : QueueNo) (s : State) :
    ruleFlush [BitVec.ofNat 8 n.val] s =
      if (s.stream n).subscribed = false then .refuse .state
      else .ok (s.flushStreams [n]) [BitVec.ofNat 8 ([n].countP s.flushable)] := by
  have hbyte : (BitVec.ofNat 8 n.val).toNat ≠ 255 := by
    rw [BitVec.toNat_ofNat]
    omega
  rw [ruleFlush, show byteAt [BitVec.ofNat 8 n.val] 0 = BitVec.ofNat 8 n.val from rfl, queueOf_ofNat, if_neg hbyte]
  simp only [bigEndian_one]

theorem ruleFlush_all (s : State) :
    ruleFlush [255] s = .ok (s.flushStreams (List.finRange 13))
      [BitVec.ofNat 8 ((List.finRange 13).countP s.flushable)] := by
  rw [ruleFlush, if_pos (show (byteAt [(255 : Byte)] 0).toNat = 255 from rfl)]
  simp only [bigEndian_one]

theorem flush_one (h : s.Offers r rest) (hp : r.payload = [0x65, BitVec.ofNat 8 n.val]) :
    exec .flush s = .next (
      if (s.stream n).subscribed = false then { s with link := s.link.replied r .state [] }
      else if 0 < (s.queue n).waiting ∨ 0 < (s.queue n).pendingLoss then
        { s.withStream n { s.stream n with flushPending := true } with link := s.link.replied r .ok [1] }
      else { s with link := s.link.replied r .ok [0] }) := by
  have hrule := ruleFlush_one n (s.startExecuting r)
  have hnews : (s.queue n).hasNews = true ↔ 0 < (s.queue n).waiting ∨ 0 < (s.queue n).pendingLoss := by
    simp [CaptureQueue.hasNews]
  rw [exec_flush]
  cases hsubscribed : (s.stream n).subscribed with
  | false =>
    rw [startExecuting_stream, if_pos hsubscribed] at hrule
    rw [if_pos rfl]
    exact row_refused h hp rfl rfl rfl hrule
  | true =>
    have hflushable : (s.startExecuting r).flushable n = (s.queue n).hasNews := by
      rw [flushable_eq, startExecuting_stream, hsubscribed, Bool.true_and]
      rfl
    rw [startExecuting_stream, if_neg (by simp [hsubscribed]), flushStreams_eq] at hrule
    rw [if_neg nofun]
    by_cases hwaits : (s.queue n).hasNews = true
    · rw [List.filter_cons_of_pos (hflushable.trans hwaits), List.countP_cons_of_pos (hflushable.trans hwaits)] at hrule
      have hnext := row_ok h hp rfl rfl rfl hrule rfl
      rw [if_pos (hnews.1 hwaits)]
      exact hnext
    · have hnot : ¬ (s.startExecuting r).flushable n = true := by rwa [hflushable]
      rw [List.filter_cons_of_neg hnot, List.countP_cons_of_neg hnot] at hrule
      have hnext := row_ok h hp rfl rfl rfl hrule rfl
      rw [if_neg fun hsome => hwaits (hnews.2 hsome)]
      exact hnext

theorem flush_all (h : s.Offers r rest) (hp : r.payload = [0x65, 255]) :
    exec .flush s = .next { (s.startExecuting r).flushStreams (List.finRange 13) with
      link := s.link.replied r .ok [BitVec.ofNat 8 ((List.finRange 13).countP s.flushable)] } := by
  have hlink : ((s.startExecuting r).flushStreams (List.finRange 13)).link = (s.startExecuting r).link := by
    rw [flushStreams_eq, flushes_shape]
  have hnext := row_ok h hp rfl rfl rfl (ruleFlush_all (s.startExecuting r)) hlink
  rw [exec_flush]
  exact hnext

/-! ### Readiness (R156, R157) -/

theorem streamReady_iff (s : State) (n : QueueNo) :
    s.streamReady n = true ↔
      (s.stream n).subscribed = true ∧
        ((s.stream n).batch ≤ (s.queue n).waiting ∨
         (0 < (s.queue n).waiting ∨ 0 < (s.queue n).pendingLoss) ∧
           ((s.stream n).flushPending = true ∨
            ∃ start ∈ (s.stream n).holdStart, start + (s.stream n).hold * 1000 ≤ s.time.runClock)) := by
  have hnews : (s.queue n).hasNews = true ↔ 0 < (s.queue n).waiting ∨ 0 < (s.queue n).pendingLoss := by
    simp [CaptureQueue.hasNews]
  have hhold : s.holdRunOut n = true ↔ (s.queue n).hasNews = true ∧
      ∃ start ∈ (s.stream n).holdStart, start + (s.stream n).hold * 1000 ≤ s.time.runClock := by
    cases hstart : (s.stream n).holdStart <;> simp [State.holdRunOut, hstart, reached_iff]
  simp only [State.streamReady, Bool.and_eq_true, Bool.or_eq_true, decide_eq_true_eq, hhold, ← hnews]
  refine and_congr_right fun _ => ?_
  rw [and_or_left, or_assoc, or_comm (a := (s.queue n).hasNews = true ∧ (s.stream n).flushPending = true)]

end Streams

/-- Settles O52: the refusals, the three requests, and readiness from the queue as it stands. -/
theorem streamRequestsAndReadiness : Obligations.StreamRequestsAndReadiness := by
  refine ⟨fun s r rest number h hout => ⟨fun fields => subscribe_range h hout, unsubscribe_range h hout,
    flush_range h hout⟩, fun s r rest n h => ⟨fun batch hold => subscribe_eq h, unsubscribe_answers h, flush_one h,
    fun hp => ⟨_, flush_all h hp, ?_, fun m => ?_⟩⟩, fun s n => ⟨rfl, streamReady_iff s n⟩⟩
  · rw [flushStreams_eq, flushes_shape]
    rfl
  · have hstream := flushes_stream m ((List.finRange 13).filter s.flushable) (s.startExecuting r)
    simp only [List.mem_filter, List.mem_finRange, true_and, Bool.decide_eq_true, startExecuting_stream] at hstream
    exact hstream

end Sys2Proof.Proofs
end

section
/-! PROOFS. The check of a word and the CRC of a frame as remainders over the field of two elements (R2, R139), and the
layout of frames and numbers (R172): O53. -/

namespace Sys2Proof.Proofs

-- One theorem after another: elaborating them all at once costs a thread and its stack for each.
set_option Elab.async false

open Sys2Proof.Machine Sys2Proof.Laws Polynomial

/-! ### Bits as coefficients -/

/-- The polynomial whose coefficients are the bits of a list, the first bit at the highest place. -/
noncomputable def bitsPoly : List Bool → (ZMod 2)[X]
  | [] => 0
  | bit :: bits => (if bit then X ^ bits.length else 0) + bitsPoly bits

/-- The bits of a word in sending order, the most significant first. -/
def bitsOf {n : Nat} (word : BitVec n) : List Bool := List.ofFn fun k : Fin n => word.getMsbD k

/-- The polynomial of a word's bits, the most significant bit at the highest place. -/
noncomputable def wordPoly {n : Nat} (word : BitVec n) : (ZMod 2)[X] := bitsPoly (bitsOf word)

@[simp] theorem bitsOf_length {n : Nat} (word : BitVec n) : (bitsOf word).length = n := List.length_ofFn

/-- In characteristic 2 a polynomial added to itself is 0. -/
theorem poly_add_self (p : (ZMod 2)[X]) : p + p = 0 := CharTwo.add_self_eq_zero p

theorem bitsPoly_ofFn {n : Nat} (bit : Fin n → Bool) :
    bitsPoly (List.ofFn bit) = ∑ k : Fin n, if bit k then X ^ (n - 1 - k.val) else 0 := by
  induction n with
  | zero => simp [bitsPoly]
  | succ n ih =>
    rw [List.ofFn_succ, bitsPoly, ih, Fin.sum_univ_succ, List.length_ofFn]
    refine congrArg₂ _ rfl (Finset.sum_congr rfl fun k _ => ?_)
    rw [Fin.val_succ, show n + 1 - 1 - (k.val + 1) = n - 1 - k.val by omega]

theorem wordPoly_eq {n : Nat} (word : BitVec n) :
    wordPoly word = ∑ k : Fin n, if word.getMsbD k then X ^ (n - 1 - k.val) else 0 := bitsPoly_ofFn _

theorem bitsPoly_append (front back : List Bool) :
    bitsPoly (front ++ back) = bitsPoly front * X ^ back.length + bitsPoly back := by
  induction front with
  | nil => simp [bitsPoly]
  | cons bit front ih =>
    rw [List.cons_append, bitsPoly, bitsPoly, ih, List.length_append]
    cases bit
    · simp
    · simp only [if_true]
      ring

theorem bitsPoly_degree_lt (bits : List Bool) : (bitsPoly bits).degree < bits.length := by
  induction bits with
  | nil => simp [bitsPoly]
  | cons bit bits ih =>
    have hgrow : ((bits.length : Nat) : WithBot Nat) < ((bits.length + 1 : Nat) : WithBot Nat) := by
      exact_mod_cast Nat.lt_succ_self _
    refine lt_of_le_of_lt (degree_add_le _ _) (max_lt ?_ (ih.trans hgrow))
    cases bit with
    | false => simp
    | true => simpa using hgrow

theorem wordPoly_degree_lt {n : Nat} (word : BitVec n) : (wordPoly word).degree < n := by
  have h := bitsPoly_degree_lt (bitsOf word)
  rwa [bitsOf_length] at h

theorem wordPoly_xor {n : Nat} (a b : BitVec n) : wordPoly (a ^^^ b) = wordPoly a + wordPoly b := by
  rw [wordPoly_eq, wordPoly_eq, wordPoly_eq, ← Finset.sum_add_distrib]
  refine Finset.sum_congr rfl fun k _ => ?_
  rw [BitVec.getMsbD_xor]
  cases a.getMsbD k <;> cases b.getMsbD k <;> simp [poly_add_self]

/-- A shift multiplies by X, but for the bit it drops. -/
theorem wordPoly_shift {n : Nat} (word : BitVec (n + 1)) :
    X * wordPoly word = wordPoly (word <<< 1) + if word.msb then X ^ (n + 1) else 0 := by
  rw [wordPoly_eq, wordPoly_eq, Fin.sum_univ_succ, Fin.sum_univ_castSucc, mul_add, Finset.mul_sum, add_comm,
    BitVec.msb_eq_getMsbD_zero]
  refine congrArg₂ _ ?_ ?_
  · have hlast : (word <<< 1).getMsbD (Fin.last n) = false := by simp
    rw [hlast, if_neg Bool.false_ne_true, add_zero]
    refine Finset.sum_congr rfl fun k _ => ?_
    have hbit : (word <<< 1).getMsbD k.castSucc.val = word.getMsbD k.succ.val := by
      rw [BitVec.getMsbD_shiftLeft, Fin.val_castSucc, Fin.val_succ]
    rw [hbit, mul_ite, mul_zero, ← pow_succ', Fin.val_succ, Fin.val_castSucc,
      show n + 1 - 1 - (k.val + 1) + 1 = n + 1 - 1 - k.val by omega]
  · rw [mul_ite, mul_zero, ← pow_succ']
    rfl

/-! ### The division register -/

/-- One bit through a division register with the taps of its generator below the highest place. -/
def registerStep {n : Nat} (taps register : BitVec n) (bit : Bool) : BitVec n :=
  if bit != register.msb then (register <<< 1) ^^^ taps else register <<< 1

theorem checkStep_eq : checkStep = registerStep 3#4 := rfl

theorem crcBit_eq : crcBit = registerStep 0x1021#16 := rfl

/-- The generator of a division register: the highest place and its taps. -/
noncomputable def generator {n : Nat} (taps : BitVec n) : (ZMod 2)[X] := X ^ n + wordPoly taps

theorem generator_monic {n : Nat} (taps : BitVec n) : (generator taps).Monic :=
  monic_X_pow_add (wordPoly_degree_lt taps)

theorem generator_degree {n : Nat} (taps : BitVec n) : (generator taps).degree = n :=
  (degree_add_eq_left_of_degree_lt (by simpa using wordPoly_degree_lt taps)).trans (degree_X_pow n)

/-- A step takes the register times X with the bit at the highest place, up to the generator. -/
theorem registerStep_poly {n : Nat} (taps register : BitVec (n + 1)) (bit : Bool) :
    X * wordPoly register + (if bit then X ^ (n + 1) else 0) =
      wordPoly (registerStep taps register bit) + if bit != register.msb then generator taps else 0 := by
  have htwice := poly_add_self (X ^ (n + 1))
  have htaps := poly_add_self (wordPoly taps)
  rw [wordPoly_shift, registerStep]
  cases bit <;> cases register.msb
  · simp
  · simp only [Bool.false_bne, if_true, Bool.false_eq_true, if_false, wordPoly_xor, generator]
    linear_combination -htaps
  · simp only [Bool.true_bne, Bool.not_false, if_true, Bool.false_eq_true, if_false, wordPoly_xor, generator]
    linear_combination -htaps
  · simp only [Bool.true_bne, Bool.not_true, if_true, Bool.false_eq_true, if_false]
    linear_combination htwice

/-- The bits through the register leave, up to the generator, the start value and the bits moved past the register. -/
theorem registerFold_poly {n : Nat} (taps : BitVec (n + 1)) (bits : List Bool) (register : BitVec (n + 1)) :
    ∃ quotient, wordPoly (bits.foldl (registerStep taps) register) + generator taps * quotient =
      bitsPoly bits * X ^ (n + 1) + wordPoly register * X ^ bits.length := by
  induction bits generalizing register with
  | nil => exact ⟨0, by simp [bitsPoly]⟩
  | cons bit bits ih =>
    obtain ⟨quotient, hquotient⟩ := ih (registerStep taps register bit)
    have hstep := registerStep_poly taps register bit
    refine ⟨quotient + (if bit != register.msb then X ^ bits.length else 0), ?_⟩
    have hfeedback : (if bit != register.msb then generator taps else 0) * X ^ bits.length =
        generator taps * (if bit != register.msb then X ^ bits.length else 0) := by
      split <;> simp
    have hbit : (if bit then X ^ (n + 1) else 0) * X ^ bits.length =
        (if bit then X ^ bits.length else (0 : (ZMod 2)[X])) * X ^ (n + 1) := by
      split <;> ring
    rw [List.foldl_cons, bitsPoly, List.length_cons]
    linear_combination hquotient - X ^ bits.length * hstep - hfeedback + hbit

/-- The register holds the remainder by its generator. -/
theorem registerFold_mod {n : Nat} (taps : BitVec (n + 1)) (bits : List Bool) (register : BitVec (n + 1)) :
    (bitsPoly bits * X ^ (n + 1) + wordPoly register * X ^ bits.length) %ₘ generator taps =
      wordPoly (bits.foldl (registerStep taps) register) := by
  obtain ⟨quotient, hquotient⟩ := registerFold_poly taps bits register
  refine (div_modByMonic_unique quotient _ (generator_monic taps) ⟨hquotient, ?_⟩).2
  rw [generator_degree]
  exact wordPoly_degree_lt _

/-- The register is linear in its value and the bits. -/
theorem registerStep_xor {n : Nat} (taps a b : BitVec n) (x y : Bool) :
    registerStep taps (a ^^^ b) (x ^^ y) = registerStep taps a x ^^^ registerStep taps b y := by
  have hfeedback : ((x ^^ y) != (a ^^^ b).msb) = ((x != a.msb) ^^ (y != b.msb)) := by
    rw [BitVec.msb_xor]
    cases x <;> cases y <;> cases a.msb <;> cases b.msb <;> rfl
  rw [registerStep, registerStep, registerStep, hfeedback, BitVec.shiftLeft_xor_distrib]
  cases x != a.msb <;> cases y != b.msb
  · rfl
  · exact BitVec.xor_assoc _ _ _
  · simp only [Bool.xor_false, if_true, Bool.false_eq_true, if_false]
    rw [BitVec.xor_assoc, BitVec.xor_comm (b <<< 1), BitVec.xor_assoc]
  · simp only [Bool.xor_self, Bool.false_eq_true, if_true, if_false]
    rw [BitVec.xor_assoc, BitVec.xor_comm taps, BitVec.xor_assoc (b <<< 1), BitVec.xor_self, BitVec.xor_zero]

theorem registerFold_xor {n : Nat} {ι : Type} (taps : BitVec n) (places : List ι) (f g : ι → Bool) (a b : BitVec n) :
    places.foldl (fun register k => registerStep taps register (f k ^^ g k)) (a ^^^ b) =
      places.foldl (fun register k => registerStep taps register (f k)) a ^^^
        places.foldl (fun register k => registerStep taps register (g k)) b := by
  induction places generalizing a b with
  | nil => rfl
  | cons place places ih => simp only [List.foldl_cons, registerStep_xor, ih]

/-! ### The two codes -/

/-- Sending the places of a word one after another sends its bits. -/
theorem foldl_places {n : Nat} {ρ : Type} (step : ρ → Bool → ρ) (word : BitVec n) (register : ρ) :
    (List.range n).foldl (fun r k => step r (word.getMsbD k)) register = (bitsOf word).foldl step register := by
  rw [bitsOf, List.ofFn_eq_map, ← List.map_coe_finRange_eq_range, List.foldl_map, List.foldl_map]

theorem checkOf_eq (tag : Tag) (value : Value) :
    checkOf tag value = (bitsOf (tag ++ value)).foldl (registerStep 3#4) 0#4 := foldl_places _ _ _

theorem checkOf_xor (tag tag' : Tag) (value value' : Value) :
    checkOf (tag ^^^ tag') (value ^^^ value') = checkOf tag value ^^^ checkOf tag' value' := by
  rw [checkOf, ← BitVec.xor_append]
  simp only [BitVec.getMsbD_xor]
  exact registerFold_xor 3#4 (List.range 36) (tag ++ value).getMsbD (tag' ++ value').getMsbD 0#4 0#4

theorem crcByte_eq (register : BitVec 16) (byte : Byte) :
    crcByte register byte = (bitsOf byte).foldl (registerStep 0x1021#16) register := foldl_places _ _ _

theorem frameCrc_eq (bytes : List Byte) :
    frameCrc bytes = (bytes.flatMap bitsOf).foldl (registerStep 0x1021#16) 0xFFFF#16 := by
  rw [frameCrc, List.foldl_flatMap]
  simp only [← crcByte_eq]

theorem flatMap_bitsOf_length (bytes : List Byte) : (bytes.flatMap bitsOf).length = 8 * bytes.length := by
  induction bytes with
  | nil => rfl
  | cons byte bytes ih =>
    rw [List.flatMap_cons, List.length_append, ih, bitsOf_length, List.length_cons]
    omega

/-- The message polynomial of bytes, as the statement writes it. -/
theorem bitsPoly_bytes (bytes : List Byte) :
    bitsPoly (bytes.flatMap bitsOf) = ∑ i : Fin bytes.length, ∑ k : Fin 8,
      if bytes[i].getMsbD k then X ^ (8 * (bytes.length - 1 - i.val) + (7 - k.val)) else 0 := by
  induction bytes with
  | nil => simp [bitsPoly]
  | cons byte bytes ih =>
    rw [List.flatMap_cons, bitsPoly_append, ih, flatMap_bitsOf_length]
    have hsplit := Fin.sum_univ_succ (n := bytes.length) fun i => ∑ k : Fin 8,
      if (byte :: bytes)[i].getMsbD k then (X : (ZMod 2)[X]) ^ (8 * (bytes.length + 1 - 1 - i.val) + (7 - k.val)) else 0
    refine Eq.trans ?_ hsplit.symm
    refine congrArg₂ _ ?_ (Finset.sum_congr rfl fun i _ => Finset.sum_congr rfl fun k _ => ?_)
    · have hword := wordPoly_eq byte
      rw [wordPoly] at hword
      rw [hword, Finset.sum_mul]
      refine Finset.sum_congr rfl fun k _ => ?_
      rw [ite_mul, zero_mul, ← pow_add, Nat.add_comm]
      rfl
    · rw [Fin.val_succ, show bytes.length + 1 - 1 - (i.val + 1) = bytes.length - 1 - i.val by omega]
      rfl

theorem generator_check : generator 3#4 = X ^ 4 + X + 1 := by
  have hbits : bitsOf 3#4 = [false, false, true, true] := by decide
  rw [generator, wordPoly, hbits]
  simp [bitsPoly, add_assoc]

theorem generator_crc : generator 0x1021#16 = X ^ 16 + X ^ 12 + X ^ 5 + 1 := by
  have hbits : bitsOf 0x1021#16 = [false, false, false, true, false, false, false, false, false, false, true, false,
      false, false, false, true] := by decide
  rw [generator, wordPoly, hbits]
  simp [bitsPoly, add_assoc]

/-- The CRC register's start adds 1 at each of the 16 highest places. -/
theorem wordPoly_preset : wordPoly 0xFFFF#16 = ∑ k : Fin 16, X ^ k.val := by
  have hbits : ∀ k : Fin 16, (0xFFFF#16).getMsbD k = true := by decide
  rw [wordPoly_eq, ← Equiv.sum_comp Fin.revPerm]
  refine Finset.sum_congr rfl fun k _ => ?_
  rw [hbits, if_pos rfl, Fin.revPerm_apply, Fin.val_rev, show 16 - 1 - (16 - (k.val + 1)) = k.val by omega]

/-- Settles O53: both codes are division registers, whose value is the remainder by the generator and linear in the
bits; the layouts are the definitions. -/
theorem checkIsRemainder : Obligations.CheckIsRemainder := by
  refine ⟨fun tag value => ?_, checkOf_xor, fun bytes => ?_, fun kind seq payload => rfl,
    fun n x => ⟨bigEndian_length n x, fromBytes_bigEndian n x⟩⟩
  · have hcheck := registerFold_mod 3#4 (bitsOf (tag ++ value)) 0#4
    have hzero : wordPoly 0#4 = 0 := by simp [wordPoly_eq]
    have hmessage : bitsPoly (bitsOf (tag ++ value)) = _ := wordPoly_eq (tag ++ value)
    rw [← checkOf_eq, hzero, zero_mul, add_zero, generator_check, hmessage, wordPoly_eq (checkOf tag value)] at hcheck
    exact hcheck
  · have hcrc := registerFold_mod 0x1021#16 (bytes.flatMap bitsOf) 0xFFFF#16
    rw [← frameCrc_eq, generator_crc, wordPoly_preset, flatMap_bitsOf_length, bitsPoly_bytes,
      wordPoly_eq (frameCrc bytes)] at hcrc
    exact hcrc

end Sys2Proof.Proofs
end
